-- ==== Sys2Proof/Word.lean ====
section
/-! DEFINITION. The words of the machine: program words, their operand field, program counters,
characters and the cause register. -/

namespace Sys2Proof

/-- One program word: 16 bits (30_encoding.md R80). -/
abbrev Word := BitVec 16

/-- The operand field w[12:0] of a program word: 13 bits, unsigned (R81). -/
abbrev Operand := BitVec 13

/-- A program counter: 9 bits (10_state.md R22, R34). -/
abbrev Pc := BitVec 9

/-- One input character: CHAR_W = 8 bits, unsigned (20_memory.md R65). -/
abbrev Chr := BitVec 8

/-- The fault cause register: 3 bits (10_state.md R32). -/
abbrev Cause := BitVec 3

end Sys2Proof
end

