-- ==== Sys2Proof/Config.lean ====
section
/-! DEFINITION. The implementation parameters of 00_scope.md R5 and the one free value of the model. -/

namespace Sys2Proof

/-- What a lane-advancing successor from window offset W-1 does (R5, 41_pipeline.md R140). -/
inductive OverrunPolicy where
  /-- Push it into the base lane: the source's behaviour. -/
  | aliasBase
  /-- Raise WindowOverrun. -/
  | faultOnOverrun
  deriving DecidableEq, Repr

/-- The parameters of R5 that are not the program. P is the length of the program held in State;
CHAR_W is fixed at 8 (`Chr`). They are fixed for the Engine's lifetime (R38). -/
structure Config where
  /-- W, the number of lanes. -/
  W : Nat
  /-- FIFO_DEPTH; `none` is the unbounded queue of the source. -/
  fifoDepth : Option Nat
  /-- SCAN_LAST: does a scan include the lane at window offset W-1. -/
  scanLast : Bool
  /-- OVERRUN_POLICY. -/
  overrunPolicy : OverrunPolicy
  /-- SENTINEL, the end-of-input character. -/
  sentinel : Chr
  /-- IDX_W; `none` is the unbounded natural that R5 allows. -/
  idxW : Option Nat
  /-- CYC_W; `none` is unbounded. -/
  cycW : Option Nat
  deriving DecidableEq, Repr

/-- The parameters of the machine after reset. The values R5 gives where it gives one: FIFO_DEPTH
unbounded as in the source, SCAN_LAST = true, ALIAS, the suggested SENTINEL 0x00, IDX_W and CYC_W
unbounded. W = 2 is a DESIGN CHOICE: R5 leaves W open (log entry 1). -/
def Config.ofReset : Config where
  W := 2
  fifoDepth := none
  scanLast := true
  overrunPolicy := .aliasBase
  sentinel := 0x00
  idxW := none
  cycW := none

/-- FREE VALUE: what a cycle counter of finite width CYC_W (first argument) holding its largest value
(second argument) becomes at the next cycle. The spec gives the width and no behaviour at the end of the
range (log entry 5, DESIGN CHOICE). -/
opaque Config.cycOverflow : Nat → Nat → Nat

end Sys2Proof
end

