-- ==== Sys2Proof/Syntax.lean ====
section
/-! DEFINITION. The instruction set: the eight opcodes of 30_encoding.md R82, each with its 13-bit operand. -/

namespace Sys2Proof

/-- One constructor per row of the opcode table (R82). ACCEPT, END_WITHOUT_ACCEPTING, MATCH_ANY and
ACCEPT_PARTIAL keep the operand bits, which no meaning reads (R85; log entry 14). -/
inductive Instr where
  /-- Opcode 0, R161. -/
  | accept (k : Operand)
  /-- Opcode 1, R162; `k` is the second-branch target. -/
  | split (k : Operand)
  /-- Opcode 2, R163; `k` is the character to match. -/
  | matchChar (k : Operand)
  /-- Opcode 3, R164; `k` is the target. -/
  | jmp (k : Operand)
  /-- Opcode 4, R165. -/
  | endWithoutAccepting (k : Operand)
  /-- Opcode 5, R166. -/
  | matchAny (k : Operand)
  /-- Opcode 6, R167. -/
  | acceptPartial (k : Operand)
  /-- Opcode 7, R168; `k` is the character to reject. -/
  | notMatch (k : Operand)
  deriving DecidableEq, Repr

/-- The operand field of an instruction (R81, R83). -/
def Instr.operand : Instr → Operand
  | .accept k => k
  | .split k => k
  | .matchChar k => k
  | .jmp k => k
  | .endWithoutAccepting k => k
  | .matchAny k => k
  | .acceptPartial k => k
  | .notMatch k => k

end Sys2Proof
end

