-- ==== Sys2Proof/WellFormed.lean ====
section
/-! DEFINITION. Checks on instructions and programs. The encoding space has no reserved or illegal word
(30_encoding.md R84, R89), so every `Instr` is an instruction and no check stands between decoding and
execution. What the spec does check or ask for is stated here: the canonical form (R85), the assembler's
operand range (R90) and the unchecked program obligations (70_reset_and_hazards.md R252). -/

namespace Sys2Proof

/-- R85, the canonical encoding: the four opcodes that do not read the operand carry 0. -/
def Instr.isCanonical : Instr → Bool
  | .accept k => k == 0
  | .split _ => true
  | .matchChar _ => true
  | .jmp _ => true
  | .endWithoutAccepting k => k == 0
  | .matchAny k => k == 0
  | .acceptPartial k => k == 0
  | .notMatch _ => true

/-- R90, the operands the assembler syntax writes: a target below 512 for SPLIT and JMP, and no operand
for the four opcodes that do not read it. -/
def Instr.isAssemblable : Instr → Bool
  | .accept k => k == 0
  | .split k => decide (k.toNat < 512)
  | .matchChar _ => true
  | .jmp k => decide (k.toNat < 512)
  | .endWithoutAccepting k => k == 0
  | .matchAny k => k == 0
  | .acceptPartial k => k == 0
  | .notMatch _ => true

/-- R252, first obligation: in a program of `P` words a JMP target or SPLIT operand is below P. -/
def Instr.targetInRange (P : Nat) : Instr → Bool
  | .accept _ => true
  | .split k => decide (k.toNat < P)
  | .matchChar _ => true
  | .jmp k => decide (k.toNat < P)
  | .endWithoutAccepting _ => true
  | .matchAny _ => true
  | .acceptPartial _ => true
  | .notMatch _ => true

/-- R252, second obligation: is this an instruction with a pc+1 successor, which must not be the last
word of a program (where that successor is reachable). -/
def Instr.hasNextSuccessor : Instr → Bool
  | .accept _ => false
  | .split _ => true
  | .matchChar _ => true
  | .jmp _ => false
  | .endWithoutAccepting _ => false
  | .matchAny _ => true
  | .acceptPartial _ => false
  | .notMatch _ => true

/-- Both obligations of R252 on a list of instructions, the second one without the reachability
exception (a stronger check than R252 asks for). -/
def Instr.programChecks (is : List Instr) : Bool :=
  is.all (Instr.targetInRange is.length) && !(is.getLast?.any Instr.hasNextSuccessor)

end Sys2Proof
end

