-- ==== Sys2Proof/Decode.lean ====
section
/-! DEFINITION. The decoder of 30_encoding.md R84, total on all 2^16 words, and the encoder written from
the table of R82. -/

namespace Sys2Proof

/-- Why a word does not decode. -/
inductive DecodeError where
  /-- An opcode outside the 8 defined kinds (60_exceptions.md R212); unreachable from a 3-bit field. -/
  | malformedInstruction
  deriving DecidableEq, Repr

/-- The opcode field w[15:13] (R81). -/
def opcodeField (w : Word) : BitVec 3 := w.extractLsb' 13 3

/-- The operand field w[12:0] (R81). -/
def operandField (w : Word) : Operand := w.extractLsb' 0 13

/-- The opcode map of R82 on an opcode held in a type wider than three bits: a value above 7 is rejected
by name "rather than silently guessing" (R84, R212; log entry 19). -/
def decodeFields (op : Nat) (opr : Operand) : Except DecodeError Instr :=
  match op with
  | 0 => .ok (.accept opr)
  | 1 => .ok (.split opr)
  | 2 => .ok (.matchChar opr)
  | 3 => .ok (.jmp opr)
  | 4 => .ok (.endWithoutAccepting opr)
  | 5 => .ok (.matchAny opr)
  | 6 => .ok (.acceptPartial opr)
  | 7 => .ok (.notMatch opr)
  | _ => .error .malformedInstruction

/-- The decoder: opcode := w[15:13], operand := w[12:0] (R84). -/
def decode (w : Word) : Except DecodeError Instr :=
  decodeFields (opcodeField w).toNat (operandField w)

/-- The opcode value of an instruction (R82). -/
def Instr.opcode : Instr → BitVec 3
  | .accept _ => 0
  | .split _ => 1
  | .matchChar _ => 2
  | .jmp _ => 3
  | .endWithoutAccepting _ => 4
  | .matchAny _ => 5
  | .acceptPartial _ => 6
  | .notMatch _ => 7

/-- The encoder: the match value of R82 with the operand in bits 12 to 0. -/
def encode : Instr → Word
  | .accept k => 0x0000 ||| k.zeroExtend 16
  | .split k => 0x2000 ||| k.zeroExtend 16
  | .matchChar k => 0x4000 ||| k.zeroExtend 16
  | .jmp k => 0x6000 ||| k.zeroExtend 16
  | .endWithoutAccepting k => 0x8000 ||| k.zeroExtend 16
  | .matchAny k => 0xA000 ||| k.zeroExtend 16
  | .acceptPartial k => 0xC000 ||| k.zeroExtend 16
  | .notMatch k => 0xE000 ||| k.zeroExtend 16

/-- The word whose bits are the low `nbits` bits of `w`, the bits above them 0. A word is one 16-bit unit
(R80), so bit 0 of the table is bit 0 of the word (R7; log entry 15). -/
def tableWord (nbits w : Nat) : Word := BitVec.ofNat 16 (w % 2 ^ nbits)

/-- What the decoder reads from a table row's bits; every instruction is one 16-bit word, so more than 16
bits are no instruction (R80). -/
def decodeTableWord (nbits w : Nat) : Option Instr :=
  if nbits ≤ 16 then (decode (tableWord nbits w)).toOption else none

end Sys2Proof
end

