-- ==== Sys2Proof/Machine/State.lean ====
section
/-! DEFINITION. The state of the block (10_state.md R20), its parameters held as data (R38), the fault
causes (60_exceptions.md R211), the refusals of the model, and the state after reset. -/

namespace Sys2Proof.Machine

/-- The fault causes of R211. A cause raised in a cycle ends the match attempt: the step answers a NEXT
state with status FAULT and the cause's code (R147, R210), never `Outcome.fault`; so this type names what
the `cause` register can record, and no step of the model stops with it (log entry 9; safe). -/
inductive Fault where
  /-- Code 1, raised by stage 2's decoder on an opcode outside 0..7 (R212); unreachable; safe. -/
  | malformedInstruction
  /-- Code 2, raised by a push to a lane ≥ W (R213); unreachable from a well-formed state; safe. -/
  | invalidLanePush
  /-- Code 3, raised by a pop of an empty queue (R214); unreachable; safe. -/
  | popEmpty
  /-- Code 4, raised by stage 1 when the head pc is ≥ P (R215); safe: the effect is the spec's. -/
  | fetchBeyondProgram
  /-- Code 5, raised by stage 2 on a successor pc ≥ 512 (R216); safe: the effect is the spec's. -/
  | pcOutOfRange
  /-- Code 6, raised by the writeback when a queue exceeds FIFO_DEPTH (R217); safe: the effect is the
  spec's. -/
  | bufferOverflow
  /-- Code 7, raised by stage 2 under OVERRUN_POLICY = FAULT (R218); safe: the effect is the spec's. -/
  | windowOverrun
  deriving DecidableEq, Repr

/-- Why the model gives no next state. -/
inductive Refusal where
  /-- Raised by a dispatch arm without a meaning; no arm of this model raises it; safe. -/
  | notModelled (mnemonic : String)
  /-- Raised by every step of an Engine whose parameters, program length or input length are not legal
  values of R5, or that has SCAN_LAST = false with W = 1, which R6 refuses (log entry 7); safe. -/
  | parameters
  /-- Raised at a start edge whose input is too long for IDX_W: a host-duty violation (R245; log entry 6);
  safe. -/
  | inputTooLong
  deriving DecidableEq, Repr

/-- The result register of the match attempt (10_state.md R31). -/
inductive Status where
  | running
  | accepted
  | refused
  | fault
  deriving DecidableEq, Repr

/-- A filled pipeline latch: a program word and the continuation it was fetched for (R20, R24, R25). -/
structure Slot where
  instr : Word
  pc : Pc
  lane : Nat
  deriving DecidableEq, Repr

/-- The state of the block between two cycles, with the parameters of its step. -/
structure State where
  /-- The parameters of R5; nothing writes them (R38). -/
  cfg : Config
  /-- The program memory; P is its length (20_memory.md R61). Nothing in the block writes it (R74). -/
  program : List Word
  /-- The input characters s[0..n-1]; n is its length (R63). Written at a start edge only (R240). -/
  input : List Chr
  /-- What the host drives on `start` at the coming clock edges: `some s` is start = 1 with the input `s`
  presented, `none` is start = 0, and past the end of the list start stays 0 (R200, R201; log entry 4). -/
  edges : List (Option (List Chr))
  /-- The lane FIFOs, queue L at index L, head first (R23). -/
  buf : List (List Pc)
  /-- stage1Latch (R24). -/
  latch1 : Option Slot
  /-- stage2Latch (R25). -/
  latch2 : Option Slot
  /-- currentWindowIndex (R27). -/
  wi : Nat
  /-- currentBufferIndex (R28). -/
  base : Nat
  /-- laneActivityBitmap (R29). -/
  bitmap : List Bool
  /-- clockCycle (R30). -/
  cyc : Nat
  /-- The result register (R31). -/
  status : Status
  /-- The cause register (R32). -/
  cause : Cause
  deriving DecidableEq, Repr

/-- The reset state of V-R1 for an Engine with the given parameters and program and the given input: the
reset values of R43. -/
def State.initial (cfg : Config) (program : List Word) (input : List Chr) : State where
  cfg := cfg
  program := program
  input := input
  edges := []
  buf := (List.replicate cfg.W []).set 0 [0]
  latch1 := none
  latch2 := none
  wi := 0
  base := 0
  bitmap := List.replicate cfg.W false
  cyc := 0
  status := .running
  cause := 0

/-- The machine right after reset, every register at its value of R43. The parameters are those of
`Config.ofReset` (log entry 1), no program is loaded (log entry 2) and the input is empty (log entry 3). -/
def State.reset : State := State.initial Config.ofReset [] []

end Sys2Proof.Machine
end

