-- ==== Sys2Proof/Machine/Ops.lean ====
section
/-! DEFINITION. The shared operations: modular arithmetic, the two memories, the lane FIFOs and their
scans, the cycle counter, taking a fault, taking a verdict, and the reset of a start edge. -/

namespace Sys2Proof.Machine

/-! ### Arithmetic -/

/-- `mod(k, n)` of R8: the canonical non-negative remainder of an integer. -/
def wrap (k : Int) (n : Nat) : Nat := (k % (n : Int)).toNat

/-! ### Program memory and input (20_memory.md) -/

/-- The form of the program memory: at most 512 words, addressed 0, 1, ... without gaps (R61). Equal
memories are equal lists, since the list holds exactly the loaded entries (log entry 10). -/
abbrev Memory.wf (p : List Word) : Prop := p.length ≤ 512

/-- The word at a program address; `none` at an address that is not part of the program (R62, R69). -/
def Memory.read (p : List Word) (a : Nat) : Option Word := p[a]?

/-- A load of one word from outside the machine, the loader's interface (30_encoding.md R91): the block
itself never writes the program (R74). An address past the end extends the program, and the entries in
between are filled with word 0 (log entry 16, DESIGN CHOICE). -/
def Memory.load (p : List Word) (a : Nat) (w : Word) : List Word :=
  if a < p.length then p.set a w else p ++ List.replicate (a - p.length) 0 ++ [w]

/-- `ProgRead(pc)`, or `none` for pc ≥ P (R62). -/
def State.progRead (s : State) (pc : Pc) : Option Word := Memory.read s.program pc.toNat

/-- The input length n (R63; log entry 3). -/
def State.n (s : State) : Nat := s.input.length

/-- `CharRead(idx)` for idx ≤ n, with SENTINEL at n; `none` above n, which is never read (R64). -/
def State.charRead (s : State) (idx : Nat) : Option Chr :=
  if idx < s.n then s.input[idx]? else if idx = s.n then some s.cfg.sentinel else none

/-! ### The lane FIFOs (40_buffers.md) -/

/-- The queue of a lane; a lane with no queue reads as empty (log entry 17). -/
def fifo (buf : List (List Pc)) (L : Nat) : List Pc := buf.getD L []

/-- `Empty(L)` (R104). -/
def isEmptyLane (buf : List (List Pc)) (L : Nat) : Bool := (fifo buf L).isEmpty

/-- `Head(L)` (R103): `none` on an empty queue, for which it is not defined. -/
def headOf (buf : List (List Pc)) (L : Nat) : Option Pc := (fifo buf L).head?

/-- `Push(L, pc)` (R101): append at the tail, or the fault and no push for a lane ≥ W. -/
def push (W : Nat) (buf : List (List Pc)) (L : Nat) (pc : Pc) : List (List Pc) × List Fault :=
  if W ≤ L then (buf, [.invalidLanePush]) else (buf.set L (fifo buf L ++ [pc]), [])

/-- The pushes of a cycle, in order (R144). -/
def pushAll (W : Nat) (buf : List (List Pc)) : List (Nat × Pc) → List (List Pc) × List Fault
  | [] => (buf, [])
  | (L, pc) :: rest =>
    let r := push W buf L pc
    let r' := pushAll W r.1 rest
    (r'.1, r.2 ++ r'.2)

/-- `Pop(L)` (R102): remove the head, or the fault on an empty queue. -/
def pop (buf : List (List Pc)) (L : Nat) : List (List Pc) × List Fault :=
  match fifo buf L with
  | [] => (buf, [.popEmpty])
  | _ :: rest => (buf.set L rest, [])

/-- `Flush()` (R109). -/
def flush (W : Nat) : List (List Pc) := List.replicate W []

/-- The capacity check (R111): does some queue hold more than FIFO_DEPTH entries. -/
def overflows (depth : Option Nat) (buf : List (List Pc)) : Bool :=
  match depth with
  | none => false
  | some d => buf.any fun q => decide (d < q.length)

/-- `ScanSet(base)` (R105). -/
def scanSet (cfg : Config) (base : Nat) : List Nat :=
  (List.range (if cfg.scanLast then cfg.W else cfg.W - 1)).map fun k => (base + k) % cfg.W

/-- `HasReady(base)` (R106), over the queues at the start of the cycle. -/
def State.hasReady (s : State) : Bool :=
  (scanSet s.cfg s.base).any fun L => !isEmptyLane s.buf L

/-- `FirstNonEmpty(base)` (R107). -/
def State.firstNonEmpty (s : State) : Option Nat :=
  (scanSet s.cfg s.base).find? fun L => !isEmptyLane s.buf L

/-! ### The cycle counter -/

/-- `cyc + 1` (R197). A counter of finite width CYC_W that holds its largest value becomes a free value
within its width (log entry 5). -/
def State.nextCyc (s : State) : Nat :=
  match s.cfg.cycW with
  | none => s.cyc + 1
  | some w => if s.cyc + 1 < 2 ^ w then s.cyc + 1 else Config.cycOverflow w s.cyc % 2 ^ w

/-! ### Faults and verdicts (60_exceptions.md) -/

/-- The cause codes of R211. -/
def Fault.code : Fault → Cause
  | .malformedInstruction => 1
  | .invalidLanePush => 2
  | .popEmpty => 3
  | .fetchBeyondProgram => 4
  | .pcOutOfRange => 5
  | .bufferOverflow => 6
  | .windowOverrun => 7

/-- The fault with the lowest code among those raised in a cycle (R145, R220). -/
def lowest : List Fault → Option Fault
  | [] => none
  | f :: rest =>
    match lowest rest with
    | none => some f
    | some g => if f.code ≤ g.code then some f else some g

/-- TAKING A FAULT (R147, R210, R222): status becomes FAULT, cause records the code, cyc counts the cycle,
and nothing else changes. There is no vector, no handler and no saved pc. -/
def State.takeFault (s : State) (f : Fault) : State :=
  { s with status := .fault, cause := f.code, cyc := s.nextCyc }

/-- The verdict stage 2 can give (R145). -/
inductive Verdict where
  | accepted
  | refused
  deriving DecidableEq, Repr

/-- The status a verdict leaves (R31). -/
def Verdict.status : Verdict → Status
  | .accepted => .accepted
  | .refused => .refused

/-- Taking a verdict (R148): status and cyc, and nothing else. -/
def State.takeVerdict (s : State) (v : Verdict) : State :=
  { s with status := v.status, cyc := s.nextCyc }

/-! ### Start edges: the reset, which is also the return from a fault (R223, R240, R241) -/

/-- `reset(input)` of R241 at a start edge: the parameters and the program are kept (R243). -/
def State.startMatch (s : State) (inp : List Chr) : State :=
  { s with
    input := inp
    buf := (flush s.cfg.W).set 0 [0]
    latch1 := none
    latch2 := none
    wi := 0
    base := 0
    bitmap := List.replicate s.cfg.W false
    cyc := 0
    status := .running
    cause := 0 }

/-- Does an input of `n` characters fit IDX_W: n + W < 2^IDX_W (R5, R245). -/
def Config.inputFits (cfg : Config) (n : Nat) : Bool :=
  match cfg.idxW with
  | none => true
  | some w => decide (n + cfg.W < 2 ^ w)

/-- Are the parameters legal values of R5: W ≥ 1, FIFO_DEPTH ≥ 1 or unbounded, CYC_W ≥ 1 or unbounded,
and not SCAN_LAST = false with W = 1 (R6). -/
def Config.legal (cfg : Config) : Bool :=
  decide (1 ≤ cfg.W) && (cfg.scanLast || decide (cfg.W ≠ 1)) && decide (cfg.fifoDepth ≠ some 0) &&
    decide (cfg.cycW ≠ some 0)

/-- What the host establishes before the rules hold (R245): legal parameters, a program of 1 to 512
words, and an input that fits IDX_W. -/
def State.legal (s : State) : Bool :=
  Config.legal s.cfg && decide (1 ≤ s.program.length) && decide (s.program.length ≤ 512) &&
    Config.inputFits s.cfg s.n

/-- The input presented with start = 1 at the coming edge, if start is 1 there (R200). -/
def State.startPin (s : State) : Option (List Chr) :=
  match s.edges with
  | [] => none
  | e :: _ => e

/-- The edge is past: the host's next drive of the start pin comes first (log entry 4). -/
def State.edgePassed (s : State) : State := { s with edges := s.edges.tail }

end Sys2Proof.Machine
end

