-- ==== Sys2Proof/Machine/Operands.lean ====
section
/-! DEFINITION. What an instruction reads and what it asks of the pipeline: the thread in stage 2
(41_pipeline.md R134 to R137, 42_opcodes.md R160), the result of stage 2, and the successor push with its
program-counter and lane multiplexer (R138 to R140). -/

namespace Sys2Proof.Machine

/-- The thread stage 2 executes (R160): S1, its window offset, its absolute input index and the character
there. -/
structure Thread where
  slot : Slot
  off : Nat
  idx : Nat
  c : Chr
  deriving DecidableEq, Repr

/-- The window offset of a physical lane (10_state.md R37). -/
def State.offset (s : State) (L : Nat) : Nat := wrap ((L : Int) - (s.base : Int)) s.cfg.W

/-- The absolute input index a physical lane stands for (R37, R135). -/
def State.charIndex (s : State) (L : Nat) : Nat := s.wi + s.offset L

/-- The thread stage 2 executes in the cycle from this state: none if latch1 is empty (R134) or the
execution is suppressed because its index exceeds n (R136). -/
def State.thread (s : State) : Option Thread :=
  match s.latch1 with
  | none => none
  | some sl =>
    match s.charRead (s.charIndex sl.lane) with
    | none => none
    | some c => some { slot := sl, off := s.offset sl.lane, idx := s.charIndex sl.lane, c := c }

/-- What stage 2 leaves for the rest of the cycle: its pushes, the next latch2, its verdict, the causes
it raised and the `valid` signal (R33, R138, R141, R145). -/
structure Stage2 where
  pushes : List (Nat × Pc)
  latch2 : Option Slot
  verdict : Option Verdict
  faults : List Fault
  valid : Bool
  deriving DecidableEq, Repr

/-- Stage 2 idle or suppressed, and also a thread that dies: no push, no verdict, latch2 empty (R134,
R136, R141, R160). -/
def Stage2.none : Stage2 :=
  { pushes := [], latch2 := Option.none, verdict := Option.none, faults := [], valid := false }

/-- Stage 2 of a cycle: the effect of the instruction on the thread, or nothing (R134, R136, R137). -/
def State.stage2 (s : State) (effect : Thread → Stage2) : Stage2 :=
  match s.thread with
  | none => .none
  | some t => effect t

/-- Raise a cause in stage 2 (R210). -/
def Stage2.raise (r : Stage2) (f : Fault) : Stage2 := { r with faults := r.faults ++ [f] }

/-- Give a verdict in stage 2 (R145). -/
def Stage2.give (r : Stage2) (v : Verdict) : Stage2 := { r with verdict := some v }

/-- Does a successor with this lane delta from this thread overrun the window under
OVERRUN_POLICY = FAULT (R140). -/
def State.overruns (s : State) (t : Thread) (d : Nat) : Bool :=
  decide (d = 1) && decide (t.off + 1 = s.cfg.W) && decide (s.cfg.overrunPolicy = .faultOnOverrun)

/-- `Succ(p, d)` (R138): the range check (R139), the overrun check (R140), then the push of
(mod(lane + d, W), p). -/
def State.succ (s : State) (t : Thread) (p d : Nat) (r : Stage2) : Stage2 :=
  if 512 ≤ p then r.raise .pcOutOfRange
  else if s.overruns t d then r.raise .windowOverrun
  else { r with
    pushes := r.pushes ++ [((t.slot.lane + d) % s.cfg.W, BitVec.ofNat 9 p)]
    valid := true }

/-- pc + 1 as a value that does not wrap (R139). -/
def Thread.nextPc (t : Thread) : Nat := t.slot.pc.toNat + 1

end Sys2Proof.Machine
end

