-- ==== Sys2Proof/Machine/Flags.lean ====
section
/-! DEFINITION. The block has no condition codes (10_state.md R39). What it has instead: the two
comparisons of stage 2, whose result is used in the same cycle and not kept, and the signals that are
views of the status register (R31, R33). -/

namespace Sys2Proof.Machine

/-- `zext_13(c) = operand`, over all 13 bits (30_encoding.md R87). -/
def charEquals (c : Chr) (k : Operand) : Bool := c.zeroExtend 13 == k

/-- Is the character the end-of-input sentinel (42_opcodes.md R161). -/
def State.isSentinel (s : State) (c : Chr) : Bool := c == s.cfg.sentinel

/-- The encoding of the 2-bit status register (R31). -/
def Status.code : Status → BitVec 2
  | .running => 0
  | .accepted => 1
  | .refused => 2
  | .fault => 3

/-- The signal `running` (R33). -/
def State.runningSignal (s : State) : Bool := decide (s.status = .running)

/-- The signal `accept` (R33). -/
def State.acceptSignal (s : State) : Bool := decide (s.status = .accepted)

end Sys2Proof.Machine
end

