-- ==== Sys2Proof/Machine/Pipeline.lean ====
section
/-! DEFINITION. The clock cycle around stage 2: stage 1, stage 3, the writeback, the outcome and its
commit (41_pipeline.md R131 to R150), and the Engine update (43_engine.md R190 to R197). Every part reads
the state σ of the start of the cycle (R131, R247). -/

namespace Sys2Proof.Machine

/-- Stage 1 (R132, R133): the next latch1 and the causes raised. The head is read here and removed in the
writeback (R103). -/
def State.fetch (s : State) : Option Slot × List Fault :=
  match s.firstNonEmpty with
  | none => (none, [])
  | some L =>
    match headOf s.buf L with
    | none => (none, [])
    | some pc =>
      match s.progRead pc with
      | none => (none, [.fetchBeyondProgram])
      | some w => (some { instr := w, pc := pc, lane := L }, [])

/-- The 9-bit target a delivered SPLIT pushes; stage 2 has checked that it is below 512 (R142). -/
def Slot.splitTarget (sl : Slot) : Pc := (operandField sl.instr).truncate 9

/-- Stage 3 (R142): the second branch of the SPLIT that stage 2 executed in the previous cycle. -/
def State.stage3 (s : State) : List (Nat × Pc) :=
  match s.latch2 with
  | none => []
  | some sl => [(sl.lane, sl.splitTarget)]

/-- The writeback pop of the lane stage 1 fetched from (R143). -/
def State.popFetched (s : State) (b : List (List Pc)) : List (List Pc) × List Fault :=
  match s.firstNonEmpty with
  | none => (b, [])
  | some L => pop b L

/-- The FIFO state at the end of the cycle and the causes raised on the way: the pushes in order, the pop,
the capacity check (R144). -/
def State.writeback (s : State) (pushes : List (Nat × Pc)) : List (List Pc) × List Fault :=
  let pushed := pushAll s.cfg.W s.buf pushes
  let popped := s.popFetched pushed.1
  (popped.1, pushed.2 ++ popped.2 ++
    if overflows s.cfg.fifoDepth popped.1 then [.bufferOverflow] else [])

/-- The pushes of a cycle: stage 2's, then stage 3's (R144). -/
def State.cyclePushes (s : State) (r : Stage2) : List (Nat × Pc) := r.pushes ++ s.stage3

/-- The causes raised in a cycle, in every stage (R210). -/
def State.cycleFaults (s : State) (r : Stage2) : List Fault :=
  s.fetch.2 ++ r.faults ++ (s.writeback (s.cyclePushes r)).2

/-- The Continue commit of the queues and latches (R149). -/
def State.commit (s : State) (r : Stage2) : State :=
  { s with
    buf := (s.writeback (s.cyclePushes r)).1
    latch1 := s.fetch.1
    latch2 := r.latch2 }

/-- Does a latch hold a continuation of lane i. -/
def latchOn (l : Option Slot) (i : Nat) : Bool := l.any fun sl => sl.lane == i

/-- Is a lane active: a non-empty queue or a latch that names it (R192). -/
def State.laneActive (s : State) (i : Nat) : Bool :=
  !isEmptyLane s.buf i || latchOn s.latch1 i || latchOn s.latch2 i

/-- The recomputed activity bitmap (R192). -/
def State.activity (s : State) : List Bool := (List.range s.cfg.W).map s.laneActive

/-- The number of contiguous inactive lanes from the base lane on, wrapping, at most W (R193). -/
def inactiveRun (bitmap : List Bool) (base W : Nat) : Nat :=
  ((List.range W).takeWhile fun k => !bitmap.getD ((base + k) % W) false).length

/-- No thread left anywhere: every queue and both latches empty (R195). -/
def State.noThreadLeft (s : State) : Bool :=
  s.buf.all (fun q => q.isEmpty) && s.latch1.isNone && s.latch2.isNone

/-- The end test on the state after the slide (R195, R196). -/
def State.matchOver (s : State) : Bool := decide (s.n < s.wi) || s.noThreadLeft

/-- The bitmap, the window slide and the cycle counter (R192 to R194, R197). -/
def State.slide (s : State) : State :=
  let k := inactiveRun s.activity s.base s.cfg.W
  { s with
    bitmap := s.activity
    wi := s.wi + k
    base := (s.base + k) % s.cfg.W
    cyc := s.nextCyc }

/-- `EngineUpdate` (R190): the slide, then the end test. -/
def State.engineUpdate (s : State) : State :=
  if s.slide.matchOver then { s.slide with status := .refused } else s.slide

/-- One clock cycle with the given result of stage 2 (R145, R147 to R150): the lowest fault, else the
verdict, else the commit and the Engine update. -/
def State.cycle (s : State) (r : Stage2) : State :=
  match lowest (s.cycleFaults r) with
  | some f => s.takeFault f
  | none =>
    match r.verdict with
    | some v => s.takeVerdict v
    | none => (s.commit r).engineUpdate

/-- The cycle in which stage 2 has no instruction (R134). -/
def idleCycle (s : State) : State := s.cycle .none

/-- The cycle in which stage 2's dispatch meets an opcode outside the eight kinds: MalformedInstruction
(R137, R212). A 3-bit opcode field never leads here. -/
def malformedCycle (s : State) : State :=
  s.cycle (s.stage2 fun _ => Stage2.none.raise .malformedInstruction)

end Sys2Proof.Machine
end

