-- ==== Sys2Proof/Machine/Branching.lean ====
section
/-! DEFINITION. The instructions that move a thread without looking at the input: SPLIT and JMP. -/

namespace Sys2Proof.Machine

/-- SPLIT in stage 2 (R162): the second target is range-checked now, the first branch (pc+1, lane) is
pushed now, and latch2 carries S1 to stage 3, which pushes (operand, lane) in the next cycle. -/
def splitEffect (k : Operand) (s : State) (t : Thread) : Stage2 :=
  s.succ t t.nextPc 0
    { (if 512 ≤ k.toNat then Stage2.none.raise .pcOutOfRange else Stage2.none) with
      latch2 := some t.slot }

/-- JMP in stage 2 (R164): the successor is (operand, lane). -/
def jmpEffect (k : Operand) (s : State) (t : Thread) : Stage2 :=
  s.succ t k.toNat 0 .none

/-- The cycle in which stage 2 executes SPLIT (R162). -/
def execSplit (k : Operand) (s : State) : Host.Outcome State Fault Refusal :=
  .next (s.cycle (s.stage2 (splitEffect k s)))

/-- The cycle in which stage 2 executes JMP (R164). -/
def execJmp (k : Operand) (s : State) : Host.Outcome State Fault Refusal :=
  .next (s.cycle (s.stage2 (jmpEffect k s)))

end Sys2Proof.Machine
end

