-- ==== Sys2Proof/Machine/Matching.lean ====
section
/-! DEFINITION. The instructions that consume or test a character: MATCH, MATCH_ANY and NOT_MATCH. -/

namespace Sys2Proof.Machine

/-- MATCH in stage 2 (R163): on an equal character the successor (pc+1, lane+1), else the thread dies. -/
def matchEffect (k : Operand) (s : State) (t : Thread) : Stage2 :=
  if charEquals t.c k then s.succ t t.nextPc 1 .none else .none

/-- MATCH_ANY in stage 2 (R166): the successor (pc+1, lane+1). The operand is not read (R85). -/
def matchAnyEffect (_k : Operand) (s : State) (t : Thread) : Stage2 :=
  s.succ t t.nextPc 1 .none

/-- NOT_MATCH in stage 2 (R168, R171): on a different character the successor (pc+1, lane), whose lane is
NOT advanced, else the thread dies. -/
def notMatchEffect (k : Operand) (s : State) (t : Thread) : Stage2 :=
  if charEquals t.c k then .none else s.succ t t.nextPc 0 .none

/-- The cycle in which stage 2 executes MATCH (R163). -/
def execMatch (k : Operand) (s : State) : Host.Outcome State Fault Refusal :=
  .next (s.cycle (s.stage2 (matchEffect k s)))

/-- The cycle in which stage 2 executes MATCH_ANY (R166). -/
def execMatchAny (k : Operand) (s : State) : Host.Outcome State Fault Refusal :=
  .next (s.cycle (s.stage2 (matchAnyEffect k s)))

/-- The cycle in which stage 2 executes NOT_MATCH (R168). -/
def execNotMatch (k : Operand) (s : State) : Host.Outcome State Fault Refusal :=
  .next (s.cycle (s.stage2 (notMatchEffect k s)))

end Sys2Proof.Machine
end

