-- ==== Sys2Proof/Machine/Verdicts.lean ====
section
/-! DEFINITION. The instructions that end the match: ACCEPT, ACCEPT_PARTIAL and END_WITHOUT_ACCEPTING. None
of them reads its operand (30_encoding.md R85). -/

namespace Sys2Proof.Machine

/-- ACCEPT in stage 2 (R161): ACCEPTED on the sentinel, else the thread dies. -/
def acceptEffect (_k : Operand) (s : State) (t : Thread) : Stage2 :=
  if s.isSentinel t.c then Stage2.none.give .accepted else .none

/-- END_WITHOUT_ACCEPTING in stage 2 (R165): the whole match is REFUSED. -/
def endEffect (_k : Operand) (_s : State) (_t : Thread) : Stage2 :=
  Stage2.none.give .refused

/-- ACCEPT_PARTIAL in stage 2 (R167): ACCEPTED. -/
def acceptPartialEffect (_k : Operand) (_s : State) (_t : Thread) : Stage2 :=
  Stage2.none.give .accepted

/-- The cycle in which stage 2 executes ACCEPT (R161). -/
def execAccept (k : Operand) (s : State) : Host.Outcome State Fault Refusal :=
  .next (s.cycle (s.stage2 (acceptEffect k s)))

/-- The cycle in which stage 2 executes END_WITHOUT_ACCEPTING (R165). -/
def execEndWithoutAccepting (k : Operand) (s : State) : Host.Outcome State Fault Refusal :=
  .next (s.cycle (s.stage2 (endEffect k s)))

/-- The cycle in which stage 2 executes ACCEPT_PARTIAL (R167). -/
def execAcceptPartial (k : Operand) (s : State) : Host.Outcome State Fault Refusal :=
  .next (s.cycle (s.stage2 (acceptPartialEffect k s)))

end Sys2Proof.Machine
end

