-- ==== Sys2Proof/Machine/Dispatch.lean ====
section
/-! DEFINITION. Stage 2's dispatch by opcode (41_pipeline.md R137): for each instruction, the clock cycle
in which stage 2 executes it for the continuation in latch1 (log entry 8). -/

namespace Sys2Proof.Machine

def exec (i : Instr) (s : State) : Host.Outcome State Fault Refusal :=
  match i with
  | .accept k => Sys2Proof.Machine.execAccept k s
  | .split k => Sys2Proof.Machine.execSplit k s
  | .matchChar k => Sys2Proof.Machine.execMatch k s
  | .jmp k => Sys2Proof.Machine.execJmp k s
  | .endWithoutAccepting k => Sys2Proof.Machine.execEndWithoutAccepting k s
  | .matchAny k => Sys2Proof.Machine.execMatchAny k s
  | .acceptPartial k => Sys2Proof.Machine.execAcceptPartial k s
  | .notMatch k => Sys2Proof.Machine.execNotMatch k s

end Sys2Proof.Machine
end

