-- ==== Sys2Proof/Machine/Interface.lean ====
section
/-! DEFINITION. What the host sees and does: the output ports (43_engine.md R200), the `valid` signal
(10_state.md R33), and the placing of an instruction for the next cycle. -/

namespace Sys2Proof.Machine

/-- The effect of an instruction in stage 2, the same function its meaning runs. -/
def effectOf : Instr → State → Thread → Stage2
  | .accept k => acceptEffect k
  | .split k => splitEffect k
  | .matchChar k => matchEffect k
  | .jmp k => jmpEffect k
  | .endWithoutAccepting k => endEffect k
  | .matchAny k => matchAnyEffect k
  | .acceptPartial k => acceptPartialEffect k
  | .notMatch k => notMatchEffect k

/-- Does the coming edge perform a cycle: no start, and status RUNNING (R130, R240). -/
def State.cycles (s : State) : Bool := s.startPin.isNone && s.runningSignal

/-- The result of stage 2 in a cycle from this state (R134, R137). -/
def State.stage2Now (s : State) : Stage2 :=
  match s.latch1 with
  | none => .none
  | some sl =>
    match decode sl.instr with
    | .error _ => s.stage2 fun _ => Stage2.none.raise .malformedInstruction
    | .ok i => s.stage2 (effectOf i s)

/-- The signal `valid` of the coming cycle: the instruction in stage 2 produced a successor (R33). -/
def State.validSignal (s : State) : Bool := s.cycles && s.stage2Now.valid

/-- The output registers and their views (R200). -/
structure Outputs where
  status : BitVec 2
  cause : Cause
  done : Bool
  matched : Bool
  cycle : Nat
  deriving DecidableEq, Repr

/-- The outputs in a state (R200, D37). -/
def State.outputs (s : State) : Outputs where
  status := s.status.code
  cause := s.cause
  done := decide (s.status ≠ .running)
  matched := decide (s.status = .accepted)
  cycle := s.cyc

/-- The port imem_addr: stage 1's fetch address in a cycle that fetches, the free value `u` in any other
(R200; log entry 12). -/
def State.imemAddr (u : Pc) (s : State) : Pc :=
  if s.cycles then
    match s.fetch.1 with
    | some sl => sl.pc
    | none => u
  else u

/-- The port char_addr: stage 2's idx in a cycle that executes, the free value `u` in any other (R200; log
entry 12). -/
def State.charAddr (u : Nat) (s : State) : Nat :=
  if s.cycles then
    match s.thread with
    | some t => t.idx
    | none => u
  else u

/-- Where the next instruction to execute stands: the continuation in latch1; with latch1 empty, the one
stage 1 would fetch next, taken from its queue; with no continuation to fetch, (pc 0, base lane). The
third part is the queues without it. -/
def State.nextToRun (s : State) : Pc × Nat × List (List Pc) :=
  match s.latch1 with
  | some sl => (sl.pc, sl.lane, s.buf)
  | none =>
    match s.firstNonEmpty with
    | none => (0, s.base, s.buf)
    | some L => ((headOf s.buf L).getD 0, L, (pop s.buf L).1)

/-- Start = 0 at the coming edge, the later edges as they were. -/
def noStart : List (Option (List Chr)) → List (Option (List Chr))
  | [] => []
  | _ :: later => none :: later

/-- The state in which the next cycle's stage 2 executes the word `w`: the word loaded at the pc of the
next continuation to run and held in latch1 with it, as the fetch of one cycle earlier leaves it (R132,
R143), the block RUNNING and start low (log entry 2). -/
def State.placeWord (s : State) (w : Word) : State :=
  { s with
    program := Memory.load s.program s.nextToRun.1.toNat w
    edges := noStart s.edges
    buf := s.nextToRun.2.2
    latch1 := some { instr := w, pc := s.nextToRun.1, lane := s.nextToRun.2.1 }
    status := .running
    cause := 0 }

end Sys2Proof.Machine
end

