-- ==== Sys2Proof/Machine/Clock.lean ====
section
/-! DEFINITION. What one rising clock edge does (00_scope.md R2, 43_engine.md R200 to R202). -/

namespace Sys2Proof.Machine

/-- One clock edge. An Engine whose parameters are not admitted is refused (R6). With start = 1 the edge
performs the reset (R240). Otherwise a halted block keeps its state (R130, R202), and a running one
performs a cycle, whose stage 2 executes the instruction latch1 holds. -/
def clockEdge (s : State) : Host.Outcome State Fault Refusal :=
  if s.legal then
    match s.startPin with
    | some inp =>
      if Config.inputFits s.cfg inp.length then .next (s.edgePassed.startMatch inp)
      else .refused .inputTooLong
    | none =>
      match s.status with
      | .running =>
        match s.latch1 with
        | none => .next (idleCycle s.edgePassed)
        | some sl =>
          match decode sl.instr with
          | .ok i => exec i s.edgePassed
          | .error _ => .next (malformedCycle s.edgePassed)
      | .accepted => .next s.edgePassed
      | .refused => .next s.edgePassed
      | .fault => .next s.edgePassed
  else .refused .parameters

end Sys2Proof.Machine
end

