-- ==== Sys2Proof/Safety.lean ====
section
/-! DEFINITION. The terms the statements use: the well-formed state, the conditions under which a cycle
raises no fault, and what a Continue cycle leaves. They are written from the rules on their own, not from
the functions of the machine that compute them. -/

namespace Sys2Proof.Machine

/-- A filled latch is well formed: its lane is a lane of the block (10_state.md R22, R36) and its word is
the program's word at its pc (R26). -/
def State.slotOk (s : State) (sl : Slot) : Prop :=
  sl.lane < s.cfg.W ∧ s.progRead sl.pc = some sl.instr

/-- A well-formed state. Every clause is a rule's: the parameters (R5, R6), the program memory's form
(R61), the input that fits IDX_W (R245), the widths of R20 and R43, the latches (R25, R26), the capacity
(R111), the counter's width (R5), the cause register (R32, with codes 1 to 3 unreachable, R212 to R214), and
while RUNNING a window that has not passed the input and whose base lane has work (R193, R195). -/
structure State.Inv (s : State) : Prop where
  config : Config.legal s.cfg = true
  memory : Memory.wf s.program
  inputFits : Config.inputFits s.cfg s.n = true
  lanes : s.buf.length = s.cfg.W
  bits : s.bitmap.length = s.cfg.W
  base : s.base < s.cfg.W
  latch1 : ∀ sl, s.latch1 = some sl → s.slotOk sl
  latch2 : ∀ sl, s.latch2 = some sl →
    s.slotOk sl ∧ opcodeField sl.instr = 1 ∧ (operandField sl.instr).toNat < 512
  capacity : ∀ d, s.cfg.fifoDepth = some d → ∀ L, L < s.cfg.W → (fifo s.buf L).length ≤ d
  counter : ∀ w, s.cfg.cycW = some w → s.cyc < 2 ^ w
  cause : if s.status = .fault then 4 ≤ s.cause.toNat else s.cause = 0
  window : s.wi ≤ s.n + s.cfg.W
  work : s.status = .running → s.wi ≤ s.n ∧ s.laneActive s.base = true

/-- The coming edge performs a cycle: the Engine is admitted, start is 0, status is RUNNING (R6, R130,
R240). -/
def State.Cycling (s : State) : Prop :=
  s.legal = true ∧ s.startPin = none ∧ s.status = .running

/-- Stage 1 raises nothing: the head pc it reads, if it reads one, is below P (R132, R215). -/
def State.FetchOk (s : State) : Prop :=
  ∀ L pc, s.firstNonEmpty = some L → headOf s.buf L = some pc → pc.toNat < s.program.length

/-- The queue of lane L at the end of a cycle that pushes these continuations, in order: the entries
pushed to L appended behind, then the head removed if L is the lane stage 1 fetched from (R144). -/
def State.queueAfter (s : State) (pushes : List (Nat × Pc)) (L : Nat) : List Pc :=
  let q := fifo s.buf L ++ (pushes.filter fun p => p.1 == L).map Prod.snd
  if s.firstNonEmpty = some L then q.tail else q

/-- No queue exceeds FIFO_DEPTH at the end of the cycle (R111). -/
def State.Room (s : State) (pushes : List (Nat × Pc)) : Prop :=
  ∀ d, s.cfg.fifoDepth = some d → ∀ L, L < s.cfg.W → (s.queueAfter pushes L).length ≤ d

/-- Lane i is active at the end of a cycle that left `u` (R192). -/
def State.ActiveLane (u : State) (i : Nat) : Prop :=
  fifo u.buf i ≠ [] ∨ (∃ sl, u.latch1 = some sl ∧ sl.lane = i) ∨ (∃ sl, u.latch2 = some sl ∧ sl.lane = i)

/-- What a Continue cycle from `s` leaves in `u`, when it pushes `pushes` and stage 2 writes `l2` to latch2:
every register of R43 (R132, R133, R141, R144, R149, R190 to R197), and the frame. -/
structure State.Continued (s u : State) (pushes : List (Nat × Pc)) (l2 : Option Slot) : Prop where
  queues : ∀ L, L < s.cfg.W → fifo u.buf L = s.queueAfter pushes L
  lanes : u.buf.length = s.buf.length
  stalled : s.firstNonEmpty = none → u.latch1 = none
  fetched : ∀ L pc w, s.firstNonEmpty = some L → headOf s.buf L = some pc → s.progRead pc = some w →
    u.latch1 = some { instr := w, pc := pc, lane := L }
  latch2 : u.latch2 = l2
  bitmap : u.bitmap.length = s.cfg.W ∧
    ∀ i, i < s.cfg.W → (u.bitmap[i]? = some true ↔ u.ActiveLane i)
  slide : ∃ k, k ≤ s.cfg.W ∧ u.wi = s.wi + k ∧ u.base = (s.base + k) % s.cfg.W ∧
    (∀ j, j < k → ¬ u.ActiveLane ((s.base + j) % s.cfg.W)) ∧ (k < s.cfg.W → u.ActiveLane u.base)
  ended : u.status = .refused ↔ s.n < u.wi ∨ ∀ i, i < s.cfg.W → ¬ u.ActiveLane i
  running : u.status = .refused ∨ u.status = .running
  cyc : u.cyc = s.nextCyc
  cause : u.cause = s.cause
  cfg : u.cfg = s.cfg
  program : u.program = s.program
  input : u.input = s.input
  edges : u.edges = s.edges

/-- A state without what no rule of the Core reads: the activity bitmap and the cycle counter (R29, R30,
R153). -/
def State.hideBitmapCyc (s : State) : State := { s with bitmap := [], cyc := 0 }

/-- Under SCAN_LAST = false the thread in latch1 is never at the last window offset (R250). -/
def State.LastOffsetFree (s : State) : Prop :=
  s.cfg.scanLast = false → ∀ sl, s.latch1 = some sl → s.offset sl.lane + 1 < s.cfg.W

end Sys2Proof.Machine
end

