-- ==== Sys2Proof/Certificates/Slice0/Obligations.lean ====
section
/-! DEFINITION. The statements for the provers. Each is about the model of Sys2Proof/Machine; its docstring
names the rules it formalises. -/

open Sys2Proof Sys2Proof.Machine

/-! ### Encoding -/

/-- Decoding the encoding of an instruction gives it back, at every operand (R81, R82). -/
def Obligations.DecodeOfEncode : Prop :=
  ∀ i : Instr, decode (encode i) = .ok i

/-- The decoder is total: every word is the instruction of its opcode field with its operand field; only a
value outside three bits is rejected (R84). -/
def Obligations.DecoderIsTotalByFields : Prop :=
  (∀ w : Word, ∃ i, decode w = .ok i ∧ i.opcode = opcodeField w ∧ i.operand = operandField w) ∧
  (∀ op (k : Operand), decodeFields op k = .error .malformedInstruction ↔ 8 ≤ op)

/-- Encoding what a word decodes to gives the word back: no bit of a word is dropped (R81, R82). -/
def Obligations.EncodeOfDecode : Prop :=
  ∀ (w : Word) (i : Instr), decode w = .ok i → encode i = w

/-- The words of the encoding examples decode to their instructions (the table of 30_encoding.md §6 and the
decoder vectors of 95_test_vectors.md §2.1). -/
def Obligations.ExampleWordsDecode : Prop :=
  decode 0x4061 = .ok (.matchChar 0x61) ∧ decode 0x0000 = .ok (.accept 0) ∧
  decode 0x2003 = .ok (.split 3) ∧ decode 0x6004 = .ok (.jmp 4) ∧
  decode 0xC000 = .ok (.acceptPartial 0) ∧ decode 0x9FFF = .ok (.endWithoutAccepting 0x1FFF) ∧
  decode 0xA000 = .ok (.matchAny 0) ∧ decode 0xE078 = .ok (.notMatch 0x78)

/-- The operand of ACCEPT, END_WITHOUT_ACCEPTING, MATCH_ANY and ACCEPT_PARTIAL is not read: two states whose
latch1 words differ only in operand bits take the same step, latch1 apart, which a verdict or a fault
keeps; and the canonical encodings carry operand 0 (R85). -/
def Obligations.IgnoredOperandBits : Prop :=
  (∀ (s : State) (w w' : Word) (pc : Pc) (L : Nat),
    opcodeField w = opcodeField w' →
    opcodeField w = 0 ∨ opcodeField w = 4 ∨ opcodeField w = 5 ∨ opcodeField w = 6 →
    ∀ u, step { s with latch1 := some ⟨w, pc, L⟩ } = .next u →
      ∃ u', step { s with latch1 := some ⟨w', pc, L⟩ } = .next u' ∧
        { u with latch1 := none } = { u' with latch1 := none }) ∧
  (∀ i : Instr, opcodeField (encode i) = 0 ∨ opcodeField (encode i) = 4 ∨ opcodeField (encode i) = 5 ∨
    opcodeField (encode i) = 6 → (i.isCanonical = true ↔ operandField (encode i) = 0))

/-! ### Arithmetic, program memory and input -/

/-- `mod(k, n)` is the canonical non-negative remainder (R8). -/
def Obligations.ModIsCanonicalRemainder : Prop :=
  ∀ (k : Int) (n : Nat), 0 < n →
    wrap k n < n ∧ (∃ q : Int, k = q * n + wrap k n) ∧
    ∀ (r : Nat) (q : Int), r < n → k = q * n + r → wrap k n = r

/-- `CharRead`: the character at an index below n, SENTINEL at n, and no read above n (R64). -/
def Obligations.CharReadEndsAtSentinel : Prop :=
  ∀ (s : State) (idx : Nat),
    (∀ c, s.input[idx]? = some c → s.charRead idx = some c) ∧
    s.charRead s.n = some s.cfg.sentinel ∧
    (s.n < idx ↔ s.charRead idx = none)

/-- The thread in stage 2: none when latch1 is empty or its index exceeds n; else its offset is the
canonical one of lane - base, its index is wi + off, and its character is the one at that index (R135, R160). -/
def Obligations.ThreadReadsAtWindowIndex : Prop :=
  ∀ s : State, s.Inv →
    (s.latch1 = none → s.thread = none) ∧
    ∀ sl, s.latch1 = some sl → ∃ off, off < s.cfg.W ∧
      (∃ q : Int, (sl.lane : Int) - s.base = q * s.cfg.W + off) ∧
      (s.n < s.wi + off → s.thread = none) ∧
      (s.wi + off ≤ s.n → ∃ c, s.charRead (s.wi + off) = some c ∧
        s.thread = some { slot := sl, off := off, idx := s.wi + off, c := c })

/-! ### The lane FIFOs -/

/-- `Push`: a lane ≥ W is reported and nothing is pushed; otherwise the pc goes to the tail of its lane, with
no other queue touched and nothing raised (R101). -/
def Obligations.PushAppendsAtTail : Prop :=
  ∀ (W : Nat) (buf : List (List Pc)) (L : Nat) (pc : Pc), buf.length = W →
    (W ≤ L → push W buf L pc = (buf, [.invalidLanePush])) ∧
    (L < W → (push W buf L pc).2 = [] ∧ fifo (push W buf L pc).1 L = fifo buf L ++ [pc] ∧
      ∀ M, M ≠ L → fifo (push W buf L pc).1 M = fifo buf M)

/-- `Pop`: an empty queue raises PopEmpty; otherwise the head is removed from its lane, with no other queue
touched and nothing raised (R102). -/
def Obligations.PopRemovesHead : Prop :=
  ∀ (buf : List (List Pc)) (L : Nat),
    (fifo buf L = [] → pop buf L = (buf, [.popEmpty])) ∧
    (∀ pc rest, fifo buf L = pc :: rest →
      (pop buf L).2 = [] ∧ headOf buf L = some pc ∧ fifo (pop buf L).1 L = rest ∧
        ∀ M, M ≠ L → fifo (pop buf L).1 M = fifo buf M)

/-- `FirstNonEmpty`: the first lane of the scan set, in scan order, with a pending continuation; none when no
lane of the scan set has one (R105, R107). -/
def Obligations.FirstNonEmptyIsLowestOffset : Prop :=
  ∀ s : State,
    let K := if s.cfg.scanLast then s.cfg.W else s.cfg.W - 1
    (∀ L, s.firstNonEmpty = some L ↔ ∃ k, k < K ∧ L = (s.base + k) % s.cfg.W ∧ fifo s.buf L ≠ [] ∧
      ∀ j, j < k → fifo s.buf ((s.base + j) % s.cfg.W) = []) ∧
    (s.firstNonEmpty = none ↔ ∀ k, k < K → fifo s.buf ((s.base + k) % s.cfg.W) = [])

/-- `HasReady`: some lane of the scan set holds a pending continuation; with SCAN_LAST = true that is any lane
of the block, whatever base is (R106). -/
def Obligations.HasReadyScansLanes : Prop :=
  ∀ s : State,
    (s.hasReady = true ↔ ∃ L ∈ scanSet s.cfg s.base, fifo s.buf L ≠ []) ∧
    (s.cfg.scanLast = true → 0 < s.cfg.W →
      (s.hasReady = true ↔ ∃ L, L < s.cfg.W ∧ fifo s.buf L ≠ []))

/-- `HasReady` is true exactly when `FirstNonEmpty` finds a lane (an inference of the spec,
40_buffers.md). -/
def Obligations.HasReadyMatchesFirstNonEmpty : Prop :=
  ∀ s : State, s.hasReady = true ↔ s.firstNonEmpty ≠ none

/-- Write order: at the end of a cycle without a fault or a verdict each queue holds its old entries, then
stage 2's push, then stage 3's, less the head that stage 1 read; the capacity is checked on that (R144). -/
def Obligations.WriteOrderOfCycle : Prop :=
  ∀ (s : State) (r : Stage2), s.Inv → (∀ p ∈ r.pushes, p.1 < s.cfg.W) →
    (∀ L, L < s.cfg.W →
      fifo (s.writeback (s.cyclePushes r)).1 L = s.queueAfter (r.pushes ++ s.stage3) L) ∧
    ((s.writeback (s.cyclePushes r)).2 = [] ↔ s.Room (r.pushes ++ s.stage3)) ∧
    (¬ s.Room (r.pushes ++ s.stage3) → (s.writeback (s.cyclePushes r)).2 = [.bufferOverflow])

/-! ### The cycle: outcome, commit, Engine update -/

/-- Priority in one cycle: the fault with the lowest code of those raised in any stage; else the verdict;
else Continue (R145, R220). -/
def Obligations.OutcomePriority : Prop :=
  ∀ (s : State) (r : Stage2),
    (∀ f ∈ s.cycleFaults r, ∃ g ∈ s.cycleFaults r, (∀ h ∈ s.cycleFaults r, g.code ≤ h.code) ∧
      s.cycle r = s.takeFault g) ∧
    (s.cycleFaults r = [] → ∀ v, r.verdict = some v → s.cycle r = s.takeVerdict v) ∧
    (s.cycleFaults r = [] → r.verdict = none → s.cycle r = (s.commit r).engineUpdate)

/-- A Continue cycle commits the queues and latches and then runs the Engine update: the bitmap, the slide
over the contiguous inactive lanes at the base, the counter and the end test (R149, R190). In it `nextCyc` is
cyc + 1, and free past a finite CYC_W (the model's choice, log entry 5). -/
def Obligations.ContinueCommitsAndUpdatesEngine : Prop :=
  ∀ (s : State) (r : Stage2), s.Inv → s.status = .running → (∀ p ∈ r.pushes, p.1 < s.cfg.W) →
    (∀ sl, r.latch2 = some sl → sl.lane < s.cfg.W) →
    s.FetchOk → s.Room (r.pushes ++ s.stage3) → r.faults = [] → r.verdict = none →
    s.Continued (s.cycle r) (r.pushes ++ s.stage3) r.latch2

/-- A cycle that ends in FAULT records the lowest code raised in it and counts in cyc; every other register
keeps its value of the start of the cycle (R147). In it `nextCyc` is cyc + 1, and free past a finite CYC_W
(the model's choice, log entry 5). -/
def Obligations.FaultChangesOnlyItsRegisters : Prop :=
  ∀ s u : State, s.Cycling → step s = .next u → u.status = .fault →
    ∃ f ∈ s.edgePassed.cycleFaults s.stage2Now,
      (∀ g ∈ s.edgePassed.cycleFaults s.stage2Now, f.code ≤ g.code) ∧
      u = { s.edgePassed with status := .fault, cause := f.code, cyc := s.nextCyc }

/-- The causes MalformedInstruction, InvalidLanePush and PopEmpty do not arise from a well-formed state (an
inference of the spec, 60_exceptions.md §2). -/
def Obligations.DefensiveCausesNeverArise : Prop :=
  ∀ s u : State, s.Inv → s.Cycling → step s = .next u → u.status = .fault →
    u.cause ≠ 1 ∧ u.cause ≠ 2 ∧ u.cause ≠ 3

/-- Stage 1 at a head pc ≥ P: the cycle ends in the fault FetchBeyondProgram, whatever stage 2 holds, a
suppressed thread or a verdict included (R215). In it `nextCyc` is cyc + 1, and free past a finite CYC_W (the
model's choice, log entry 5). -/
def Obligations.FetchBeyondProgramFaults : Prop :=
  ∀ (s : State) (L : Nat) (pc : Pc), s.Inv → s.Cycling → s.firstNonEmpty = some L →
    headOf s.buf L = some pc → s.program.length ≤ pc.toNat →
    step s = .next { s.edgePassed with status := .fault, cause := 4, cyc := s.nextCyc }

/-- A successor pc ≥ 512 ends the cycle in the fault PcOutOfRange: a JMP or SPLIT with operand ≥ 512, and pc +
1 = 512 from a SPLIT, a succeeding MATCH, a MATCH_ANY or a succeeding NOT_MATCH; a suppressed instruction
raises nothing (R216). In it `nextCyc` is cyc + 1, and free past a finite CYC_W (the model's choice, log entry
5). -/
def Obligations.SuccessorPcOutOfRangeFaults : Prop :=
  (∀ (s : State) (t : Thread) (i : Instr), s.Inv → s.thread = some t → s.FetchOk →
    (∃ k : Operand, 512 ≤ k.toNat ∧ (i = .jmp k ∨ i = .split k)) ∨
    (t.slot.pc.toNat = 511 ∧ ∃ k : Operand, i = .split k ∨ i = .matchAny k ∨
      (i = .matchChar k ∧ t.c.zeroExtend 13 = k) ∨ (i = .notMatch k ∧ t.c.zeroExtend 13 ≠ k)) →
    exec i s = .next { s with status := .fault, cause := 5, cyc := s.nextCyc }) ∧
  (∀ (s : State) (i : Instr), s.thread = none → (s.stage2 (effectOf i s)).faults = [])

/-- A queue longer than FIFO_DEPTH at the end of a cycle raises BufferOverflow; with an unbounded FIFO_DEPTH
no cycle ends in it (R111). In it `nextCyc` is cyc + 1, and free past a finite CYC_W (the model's choice, log
entry 5). -/
def Obligations.OverflowFaults : Prop :=
  (∀ (s : State) (r : Stage2), s.Inv → (∀ p ∈ r.pushes, p.1 < s.cfg.W) → s.FetchOk → r.faults = [] →
    ¬ s.Room (r.pushes ++ s.stage3) →
    s.cycle r = { s with status := .fault, cause := 6, cyc := s.nextCyc }) ∧
  (∀ s u : State, s.Inv → s.Cycling → s.cfg.fifoDepth = none → step s = .next u → u.cause ≠ 6)

/-- Under OVERRUN_POLICY = FAULT a MATCH that succeeds or a MATCH_ANY at window offset W-1 ends the cycle in
WindowOverrun; under ALIAS no cycle ends in it, and the successor goes to the base lane (R218). In it
`nextCyc` is cyc + 1, and free past a finite CYC_W (the model's choice, log entry 5). -/
def Obligations.WindowOverrunFaults : Prop :=
  (∀ (s : State) (t : Thread) (i : Instr), s.Inv → s.thread = some t → s.FetchOk → s.Room s.stage3 →
    s.cfg.overrunPolicy = .faultOnOverrun → t.off + 1 = s.cfg.W → t.slot.pc.toNat < 511 →
    (∃ k : Operand, i = .matchAny k ∨ (i = .matchChar k ∧ t.c.zeroExtend 13 = k)) →
    exec i s = .next { s with status := .fault, cause := 7, cyc := s.nextCyc }) ∧
  (∀ s u : State, s.Inv → s.Cycling → s.cfg.overrunPolicy = .aliasBase → step s = .next u → u.cause ≠ 7) ∧
  (∀ (s : State) (t : Thread) (i : Instr), s.Inv → s.thread = some t →
    s.cfg.overrunPolicy = .aliasBase → t.off + 1 = s.cfg.W → t.slot.pc.toNat < 511 →
    (∃ k : Operand, i = .matchAny k ∨ (i = .matchChar k ∧ t.c.zeroExtend 13 = k)) →
    (s.stage2 (effectOf i s)).pushes = [(s.base, t.slot.pc + 1)])

/-- The cycle counter counts every cycle that runs, whatever its outcome: by one, unless a counter of finite
width is at its largest value, where the next value is free within the width (R197; log entry 5). -/
def Obligations.CycleCounterCounts : Prop :=
  ∀ s u : State, s.Cycling → step s = .next u →
    (s.cfg.cycW = none → u.cyc = s.cyc + 1) ∧
    (∀ w, s.cfg.cycW = some w → (s.cyc + 1 < 2 ^ w → u.cyc = s.cyc + 1) ∧ u.cyc < 2 ^ w)

/-! ### The eight instructions

exec i s is the cycle from s in which stage 2 executes i for the continuation in latch1 (log entry 8). -/

/-- ACCEPT: at the sentinel the match is ACCEPTED and only status and cyc change; at any other character the
thread dies (R161, R148). In it `nextCyc` is cyc + 1, and free past a finite CYC_W (the model's choice, log
entry 5). -/
def Obligations.AcceptResult : Prop :=
  ∀ (k : Operand) (s : State) (t : Thread), s.Inv → s.status = .running → s.thread = some t → s.FetchOk →
    s.Room s.stage3 →
    (t.c = s.cfg.sentinel →
      exec (.accept k) s = .next { s with status := .accepted, cyc := s.nextCyc }) ∧
    (t.c ≠ s.cfg.sentinel → ∃ u, exec (.accept k) s = .next u ∧ s.Continued u s.stage3 none)

/-- SPLIT: the first branch (pc+1, lane) is pushed in this cycle and latch2 takes S1 for stage 3; with an
operand ≥ 512, or at pc 511, the cycle ends in PcOutOfRange (R162). In it `nextCyc` is cyc + 1, and free past
a finite CYC_W (the model's choice, log entry 5). -/
def Obligations.SplitResult : Prop :=
  ∀ (k : Operand) (s : State) (t : Thread), s.Inv → s.status = .running → s.thread = some t → s.FetchOk →
    (k.toNat < 512 → t.slot.pc.toNat < 511 → s.Room ((t.slot.lane, t.slot.pc + 1) :: s.stage3) →
      ∃ u, exec (.split k) s = .next u ∧
        s.Continued u ((t.slot.lane, t.slot.pc + 1) :: s.stage3) (some t.slot)) ∧
    (512 ≤ k.toNat ∨ t.slot.pc.toNat = 511 →
      exec (.split k) s = .next { s with status := .fault, cause := 5, cyc := s.nextCyc })

/-- MATCH: on the character equal over 13 bits the successor (pc+1, lane+1 mod W) is pushed, into the base
lane at offset W-1 under ALIAS; a success at pc 511 ends in PcOutOfRange and one at offset W-1 under
OVERRUN_POLICY = FAULT in WindowOverrun; on any other character the thread dies (R163, R87). In it `nextCyc`
is cyc + 1, and free past a finite CYC_W (the model's choice, log entry 5). -/
def Obligations.MatchResult : Prop :=
  ∀ (k : Operand) (s : State) (t : Thread), s.Inv → s.status = .running → s.thread = some t → s.FetchOk →
    (t.c.zeroExtend 13 = k → t.slot.pc.toNat < 511 →
      (s.cfg.overrunPolicy = .aliasBase ∨ t.off + 1 < s.cfg.W) →
      s.Room (((t.slot.lane + 1) % s.cfg.W, t.slot.pc + 1) :: s.stage3) →
      ∃ u, exec (.matchChar k) s = .next u ∧
        s.Continued u (((t.slot.lane + 1) % s.cfg.W, t.slot.pc + 1) :: s.stage3) none) ∧
    (t.c.zeroExtend 13 = k → t.slot.pc.toNat = 511 →
      exec (.matchChar k) s = .next { s with status := .fault, cause := 5, cyc := s.nextCyc }) ∧
    (t.c.zeroExtend 13 = k → t.slot.pc.toNat < 511 → s.cfg.overrunPolicy = .faultOnOverrun →
      t.off + 1 = s.cfg.W → s.Room s.stage3 →
      exec (.matchChar k) s = .next { s with status := .fault, cause := 7, cyc := s.nextCyc }) ∧
    (t.c.zeroExtend 13 ≠ k → s.Room s.stage3 →
      ∃ u, exec (.matchChar k) s = .next u ∧ s.Continued u s.stage3 none)

/-- JMP: the successor (operand, lane) is pushed; with an operand ≥ 512, which no pc equals, the cycle ends in
PcOutOfRange (R164). In it `nextCyc` is cyc + 1, and free past a finite CYC_W (the model's choice, log entry
5). -/
def Obligations.JmpResult : Prop :=
  ∀ (k : Operand) (s : State) (t : Thread), s.Inv → s.status = .running → s.thread = some t → s.FetchOk →
    (∀ p : Pc, p.toNat = k.toNat → s.Room ((t.slot.lane, p) :: s.stage3) →
      ∃ u, exec (.jmp k) s = .next u ∧ s.Continued u ((t.slot.lane, p) :: s.stage3) none) ∧
    (512 ≤ k.toNat →
      exec (.jmp k) s = .next { s with status := .fault, cause := 5, cyc := s.nextCyc })

/-- END_WITHOUT_ACCEPTING: the whole match is REFUSED, whatever other threads are pending, and only status and
cyc change (R165, R148). In it `nextCyc` is cyc + 1, and free past a finite CYC_W (the model's choice, log
entry 5). -/
def Obligations.EndWithoutAcceptingResult : Prop :=
  ∀ (k : Operand) (s : State) (t : Thread), s.Inv → s.thread = some t → s.FetchOk → s.Room s.stage3 →
    exec (.endWithoutAccepting k) s = .next { s with status := .refused, cyc := s.nextCyc }

/-- MATCH_ANY: the successor (pc+1, lane+1 mod W) is pushed whatever the character; at pc 511 the cycle ends
in PcOutOfRange, and at offset W-1 under OVERRUN_POLICY = FAULT in WindowOverrun (R166). In it `nextCyc` is
cyc + 1, and free past a finite CYC_W (the model's choice, log entry 5). -/
def Obligations.MatchAnyResult : Prop :=
  ∀ (k : Operand) (s : State) (t : Thread), s.Inv → s.status = .running → s.thread = some t → s.FetchOk →
    (t.slot.pc.toNat < 511 → (s.cfg.overrunPolicy = .aliasBase ∨ t.off + 1 < s.cfg.W) →
      s.Room (((t.slot.lane + 1) % s.cfg.W, t.slot.pc + 1) :: s.stage3) →
      ∃ u, exec (.matchAny k) s = .next u ∧
        s.Continued u (((t.slot.lane + 1) % s.cfg.W, t.slot.pc + 1) :: s.stage3) none) ∧
    (t.slot.pc.toNat = 511 →
      exec (.matchAny k) s = .next { s with status := .fault, cause := 5, cyc := s.nextCyc }) ∧
    (t.slot.pc.toNat < 511 → s.cfg.overrunPolicy = .faultOnOverrun → t.off + 1 = s.cfg.W →
      s.Room s.stage3 →
      exec (.matchAny k) s = .next { s with status := .fault, cause := 7, cyc := s.nextCyc })

/-- ACCEPT_PARTIAL: the match is ACCEPTED whatever the position in the input, for a thread that is not
suppressed; only status and cyc change (R167, R148). In it `nextCyc` is cyc + 1, and free past a finite CYC_W
(the model's choice, log entry 5). -/
def Obligations.AcceptPartialResult : Prop :=
  ∀ (k : Operand) (s : State) (t : Thread), s.Inv → s.thread = some t → s.FetchOk → s.Room s.stage3 →
    exec (.acceptPartial k) s = .next { s with status := .accepted, cyc := s.nextCyc }

/-- NOT_MATCH: on a character different over 13 bits the successor (pc+1, lane) is pushed, its lane NOT
advanced, and at pc 511 the cycle ends in PcOutOfRange; on the equal character the thread dies (R168, R171).
In it `nextCyc` is cyc + 1, and free past a finite CYC_W (the model's choice, log entry 5). -/
def Obligations.NotMatchResult : Prop :=
  ∀ (k : Operand) (s : State) (t : Thread), s.Inv → s.status = .running → s.thread = some t → s.FetchOk →
    (t.c.zeroExtend 13 ≠ k → t.slot.pc.toNat < 511 →
      s.Room ((t.slot.lane, t.slot.pc + 1) :: s.stage3) →
      ∃ u, exec (.notMatch k) s = .next u ∧
        s.Continued u ((t.slot.lane, t.slot.pc + 1) :: s.stage3) none) ∧
    (t.c.zeroExtend 13 ≠ k → t.slot.pc.toNat = 511 →
      exec (.notMatch k) s = .next { s with status := .fault, cause := 5, cyc := s.nextCyc }) ∧
    (t.c.zeroExtend 13 = k → s.Room s.stage3 →
      ∃ u, exec (.notMatch k) s = .next u ∧ s.Continued u s.stage3 none)

/-- Suppression: at an index above n every instruction, a SPLIT, an ACCEPT_PARTIAL and an
END_WITHOUT_ACCEPTING included, pushes nothing, gives no verdict, raises nothing and leaves latch2 empty; at n
itself the thread is not suppressed and reads the sentinel (R136). In it `nextCyc` is cyc + 1, and free past a
finite CYC_W (the model's choice, log entry 5). -/
def Obligations.SuppressedThreadDoesNothing : Prop :=
  ∀ (i : Instr) (s : State) (sl : Slot), s.Inv → s.status = .running → s.latch1 = some sl →
    (s.n < s.charIndex sl.lane → s.FetchOk → s.Room s.stage3 →
      ∃ u, exec i s = .next u ∧ s.Continued u s.stage3 none) ∧
    (s.charIndex sl.lane = s.n → ∃ t, s.thread = some t ∧ t.slot = sl ∧ t.c = s.cfg.sentinel)

/-- With latch1 empty stage 2 is idle: the cycle pushes nothing from stage 2, gives no verdict and leaves
latch2 empty (R134). In it `nextCyc` is cyc + 1, and free past a finite CYC_W (the model's choice, log entry
5). -/
def Obligations.EmptyLatchIdles : Prop :=
  ∀ s : State, s.Inv → s.Cycling → s.latch1 = none → s.FetchOk → s.Room s.stage3 →
    ∃ u, step s = .next u ∧ s.edgePassed.Continued u s.stage3 none

/-- Stage 3 delivers the second branch of the SPLIT in latch2: one push of (operand, lane), both in range
(R142). -/
def Obligations.StageThreeDeliversSecondBranch : Prop :=
  ∀ s : State, s.Inv →
    (s.latch2 = none → s.stage3 = []) ∧
    ∀ sl, s.latch2 = some sl → ∃ p : Pc, p.toNat = (operandField sl.instr).toNat ∧
      s.stage3 = [(sl.lane, p)] ∧ sl.lane < s.cfg.W

/-- SPLIT fan-out over two cycles: pc+1 is in the SPLIT's lane at the end of the first cycle, and its operand
is the last entry of that lane at the end of the second, if both cycles leave the block RUNNING (an
inference of the spec, 41_pipeline.md §9). -/
def Obligations.SplitFansOutOverTwoCycles : Prop :=
  ∀ (s u v : State) (t : Thread) (k : Operand), s.Inv → s.Cycling → s.thread = some t →
    decode t.slot.instr = .ok (.split k) → step s = .next u → u.Cycling → step u = .next v →
    v.status = .running →
    t.slot.pc + 1 ∈ fifo u.buf t.slot.lane ∧
    ∃ p : Pc, p.toNat = k.toNat ∧ (fifo v.buf t.slot.lane).getLast? = some p

/-- A lane-advancing successor at window offset W-1 is for the base lane, and with W = 1 every thread is at
that offset (41_pipeline.md §4, the window overrun; with R138's push this is the aliasing). -/
def Obligations.OverrunLaneIsBase : Prop :=
  ∀ (s : State) (t : Thread), s.Inv → s.thread = some t →
    (t.off + 1 = s.cfg.W ↔ (t.slot.lane + 1) % s.cfg.W = s.base) ∧ (s.cfg.W = 1 → t.off + 1 = s.cfg.W)

/-- Frame of every instruction: the parameters, the program, the input and the host's schedule are unchanged,
every program word and every character reads as before, and a queue keeps its entries unless the cycle
pushes to its lane or pops it (R74, R153 and the rules of the eight instructions). -/
def Obligations.ExecFrame : Prop :=
  ∀ (i : Instr) (s u : State), s.Inv → exec i s = .next u →
    u.cfg = s.cfg ∧ u.program = s.program ∧ u.input = s.input ∧ u.edges = s.edges ∧
    (∀ pc, u.progRead pc = s.progRead pc) ∧ (∀ idx, u.charRead idx = s.charRead idx) ∧
    (u.status ≠ .fault → u.cause = s.cause) ∧
    ∀ L, L < s.cfg.W → s.firstNonEmpty ≠ some L →
      (∀ p ∈ s.cyclePushes (s.stage2 (effectOf i s)), p.1 ≠ L) → fifo u.buf L = fifo s.buf L

/-- One instruction requests at most one successor, in a lane of the block, and `valid` is true exactly when
it does (R33; the bound is an inference of the spec, 42_opcodes.md). -/
def Obligations.AtMostOneSuccessor : Prop :=
  ∀ (i : Instr) (s : State) (t : Thread), s.Inv →
    (effectOf i s t).pushes.length ≤ 1 ∧ (∀ p ∈ (effectOf i s t).pushes, p.1 < s.cfg.W) ∧
    ((effectOf i s t).valid = true ↔ (effectOf i s t).pushes ≠ [])

/-! ### The clock edge -/

/-- A cycle runs the instruction that latch1 holds: step is exec of the decoded instruction, at the state
whose host schedule has moved past this edge (R134, R137; log entry 8). -/
def Obligations.StepRunsDecodedInstruction : Prop :=
  ∀ (s : State) (sl : Slot), s.Cycling → s.latch1 = some sl →
    ∃ i, decode sl.instr = .ok i ∧ step s = exec i s.edgePassed

/-- The placing of a word makes the very next step run it: the model's own host operation (log entry 2). -/
def Obligations.PlacedWordRunsNext : Prop :=
  ∀ (s : State) (w : Nat), s.Inv →
    ∃ i, decodeTableWord 16 w = some i ∧
      step (s.withFetchWord 16 w) = exec i (s.withFetchWord 16 w).edgePassed ∧
      (s.withFetchWord 16 w).latch1.any (fun sl => decide (sl.instr = BitVec.ofNat 16 w)) = true

/-- A halted block: without start, an edge leaves every register and every output as it is (R202); the host's
schedule, the model's own field, moves past the edge (log entry 4). -/
def Obligations.HaltedBlockHolds : Prop :=
  ∀ s : State, s.legal = true → s.startPin = none → s.status ≠ .running →
    step s = .next { s with edges := s.edges.tail } ∧
    ({ s with edges := s.edges.tail } : State).outputs = s.outputs

/-- The only way out of ACCEPTED, REFUSED or FAULT is a start, after which nothing of the match survives but
the program and the parameters (R223). The schedule of start moves past the edge (the model's own field, log
entry 4). -/
def Obligations.OnlyStartLeavesHalt : Prop :=
  ∀ s u : State, s.status ≠ .running → step s = .next u → u.status ≠ s.status →
    ∃ inp, s.startPin = some inp ∧
      u = { State.initial s.cfg s.program inp with edges := s.edges.tail }

/-- The start edge, at any status: every register takes its reset value, the parameters and the program are
kept, and the input is the one presented (R240, R241). The schedule of start moves past the edge (the model's
own field, log entry 4). -/
def Obligations.StartEdgeResets : Prop :=
  ∀ (s : State) (inp : List Chr), s.legal = true → s.startPin = some inp →
    Config.inputFits s.cfg inp.length = true →
    ∃ u, step s = .next u ∧ fifo u.buf 0 = [0] ∧ u.buf.length = s.cfg.W ∧
      (∀ L, L ≠ 0 → fifo u.buf L = []) ∧ u.latch1 = none ∧ u.latch2 = none ∧ u.wi = 0 ∧ u.base = 0 ∧
      u.bitmap.length = s.cfg.W ∧ (∀ b ∈ u.bitmap, b = false) ∧ u.cyc = 0 ∧ u.status = .running ∧
      u.cause = 0 ∧ u.input = inp ∧ u.n = inp.length ∧ u.cfg = s.cfg ∧ u.program = s.program ∧
      u.edges = s.edges.tail

/-- No state of a previous match survives a reset: from any status the start edge leaves the freshly built
machine with the same parameters, the same program and the new input (R243). The schedule of start moves past
the edge (the model's own field, log entry 4). -/
def Obligations.StartForgetsPreviousMatch : Prop :=
  ∀ (s : State) (inp : List Chr), s.legal = true → s.startPin = some inp →
    Config.inputFits s.cfg inp.length = true →
    step s = .next { State.initial s.cfg s.program inp with edges := s.edges.tail }

/-- SCAN_LAST = false with W = 1: the scan set is empty, nothing is fetched, and the configuration is refused
(R6). -/
def Obligations.EmptyScanSetRefused : Prop :=
  ∀ s : State, s.cfg.scanLast = false → s.cfg.W = 1 →
    scanSet s.cfg s.base = [] ∧ s.firstNonEmpty = none ∧ step s = .refused .parameters

/-- The first cycle after a reset: stage 1 fetches pc 0 from lane 0, nothing executes, no fault and no verdict
arises and the window does not move (an inference of the spec, 70_reset_and_hazards.md §2). -/
def Obligations.FirstCycleFetchesPcZero : Prop :=
  ∀ (cfg : Config) (program : List Word) (inp : List Chr),
    (State.initial cfg program inp).legal = true →
    ∃ u w, step (State.initial cfg program inp) = .next u ∧ program[0]? = some w ∧
      u.latch1 = some ⟨w, 0, 0⟩ ∧ u.latch2 = none ∧ (∀ L, fifo u.buf L = []) ∧ u.status = .running ∧
      u.wi = 0 ∧ u.base = 0 ∧ (∀ i, i < cfg.W → (u.bitmap[i]? = some true ↔ i = 0))

/-! ### Whole-machine rules -/

/-- The invariant holds right after reset, for every admitted choice of parameters, program and input, and at
the machine's reset state. -/
def Obligations.ResetIsWellFormed : Prop :=
  (∀ (cfg : Config) (program : List Word) (inp : List Chr), Config.legal cfg = true →
    Memory.wf program → Config.inputFits cfg inp.length = true → (State.initial cfg program inp).Inv) ∧
  State.reset.Inv

/-- Every step keeps the invariant. -/
def Obligations.StepKeepsWellFormed : Prop :=
  ∀ s u : State, s.Inv → step s = .next u → u.Inv

/-- The slide does not change the character index an active lane stands for (an inference of the spec,
43_engine.md §2). -/
def Obligations.ActiveLaneKeepsItsIndex : Prop :=
  ∀ s u : State, s.Inv → s.startPin = none → step s = .next u →
    ∀ L, L < s.cfg.W → u.ActiveLane L → u.charIndex L = s.charIndex L

/-- Without a start the window moves only forward, and base moves with it modulo W (an inference of the
spec, 43_engine.md §2). -/
def Obligations.WindowMovesForward : Prop :=
  ∀ s u : State, s.Inv → s.startPin = none → step s = .next u →
    s.wi ≤ u.wi ∧ u.wi ≤ s.wi + s.cfg.W ∧ u.base = (s.base + (u.wi - s.wi)) % s.cfg.W

/-- Under SCAN_LAST = false no thread is ever at window offset W-1 in stage 2, from reset on, and so no
cycle ends in WindowOverrun (an inference of the spec, 70_reset_and_hazards.md §3). -/
def Obligations.NoOverrunWithoutLastLane : Prop :=
  (∀ (cfg : Config) (program : List Word) (inp : List Chr),
    (State.initial cfg program inp).LastOffsetFree) ∧
  ∀ s u : State, s.Inv → s.LastOffsetFree → step s = .next u →
    u.LastOffsetFree ∧ (s.Cycling → s.cfg.scanLast = false → u.cause ≠ 7)

/-- No rule reads the bitmap or the cycle counter: two states that differ only in them step to states that
differ only in them, and stop together (R29, R30, R153). -/
def Obligations.BitmapAndCounterAreNotRead : Prop :=
  ∀ s s' : State, s.hideBitmapCyc = s'.hideBitmapCyc →
    (∀ u, step s = .next u → ∃ u', step s' = .next u' ∧ u.hideBitmapCyc = u'.hideBitmapCyc) ∧
    (∀ r, step s = .refused r → step s' = .refused r)

/-- The snapshot: what stage 1 latches depends on nothing that the cycle writes and not on the latches; two
states that differ only in their latches fetch the same, whenever both cycles leave the block RUNNING
(R131). -/
def Obligations.FetchReadsTheSnapshot : Prop :=
  ∀ (s u u' : State) (l1 l2 : Option Slot), s.Cycling →
    step s = .next u → step { s with latch1 := l1, latch2 := l2 } = .next u' →
    u.status = .running → u'.status = .running → u.latch1 = u'.latch1

/-- The program and the parameters are constant over every edge, and the input changes at a start only (R74,
R63). -/
def Obligations.ProgramAndInputAreReadOnly : Prop :=
  ∀ s u : State, step s = .next u →
    u.program = s.program ∧ u.cfg = s.cfg ∧ u.input = (s.startPin.getD s.input)

/-- The block answers every edge with a next state, except that an Engine that is not admitted and an input
that does not fit IDX_W are refused: no step answers a fault (log entries 6, 7 and 9). -/
def Obligations.EveryAdmittedEdgeCompletes : Prop :=
  ∀ s : State, (∀ f, step s ≠ .fault f) ∧
    ((∃ u, step s = .next u) ↔
      s.legal = true ∧ ∀ inp, s.startPin = some inp → Config.inputFits s.cfg inp.length = true)

/-- The outputs: status and cause as encoded, done, match and cycle (R31, R33; 43_engine.md §3). -/
def Obligations.OutputsShowTheResult : Prop :=
  ∀ s : State,
    (s.outputs.status = 0 ↔ s.runningSignal = true) ∧ (s.outputs.status = 1 ↔ s.acceptSignal = true) ∧
    (s.outputs.status = 2 ↔ s.status = .refused) ∧ (s.outputs.status = 3 ↔ s.status = .fault) ∧
    (s.outputs.done = true ↔ s.status ≠ .running) ∧ (s.outputs.matched = true ↔ s.status = .accepted) ∧
    s.outputs.cause = s.cause ∧ s.outputs.cycle = s.cyc

/-- The address ports in a cycle that fetches and in one that executes, whatever their free value elsewhere
(43_engine.md §3; log entry 12). -/
def Obligations.AddressPortsInTheirCycle : Prop :=
  ∀ s : State, s.Cycling →
    (∀ u L pc, s.firstNonEmpty = some L → headOf s.buf L = some pc → pc.toNat < s.program.length →
      s.imemAddr u = pc) ∧
    (∀ u sl, s.latch1 = some sl → s.charIndex sl.lane ≤ s.n → s.charAddr u = s.charIndex sl.lane)
end

