-- ==== Sys2Proof/Laws/State.lean ====
section
/-! SUPPORT. Each field of State after each named update of State, true by definition. -/

namespace Sys2Proof.Machine

variable (s : State)

/-! Each field after a fault. -/

@[simp] theorem State.takeFault_cfg (f : Fault) : (s.takeFault f).cfg = s.cfg := rfl
@[simp] theorem State.takeFault_program (f : Fault) : (s.takeFault f).program = s.program := rfl
@[simp] theorem State.takeFault_input (f : Fault) : (s.takeFault f).input = s.input := rfl
@[simp] theorem State.takeFault_edges (f : Fault) : (s.takeFault f).edges = s.edges := rfl
@[simp] theorem State.takeFault_buf (f : Fault) : (s.takeFault f).buf = s.buf := rfl
@[simp] theorem State.takeFault_latch1 (f : Fault) : (s.takeFault f).latch1 = s.latch1 := rfl
@[simp] theorem State.takeFault_latch2 (f : Fault) : (s.takeFault f).latch2 = s.latch2 := rfl
@[simp] theorem State.takeFault_wi (f : Fault) : (s.takeFault f).wi = s.wi := rfl
@[simp] theorem State.takeFault_base (f : Fault) : (s.takeFault f).base = s.base := rfl
@[simp] theorem State.takeFault_bitmap (f : Fault) : (s.takeFault f).bitmap = s.bitmap := rfl
@[simp] theorem State.takeFault_cyc (f : Fault) : (s.takeFault f).cyc = s.nextCyc := rfl
@[simp] theorem State.takeFault_status (f : Fault) : (s.takeFault f).status = .fault := rfl
@[simp] theorem State.takeFault_cause (f : Fault) : (s.takeFault f).cause = f.code := rfl

/-! Each field after a verdict. -/

@[simp] theorem State.takeVerdict_cfg (v : Verdict) : (s.takeVerdict v).cfg = s.cfg := rfl
@[simp] theorem State.takeVerdict_program (v : Verdict) : (s.takeVerdict v).program = s.program := rfl
@[simp] theorem State.takeVerdict_input (v : Verdict) : (s.takeVerdict v).input = s.input := rfl
@[simp] theorem State.takeVerdict_edges (v : Verdict) : (s.takeVerdict v).edges = s.edges := rfl
@[simp] theorem State.takeVerdict_buf (v : Verdict) : (s.takeVerdict v).buf = s.buf := rfl
@[simp] theorem State.takeVerdict_latch1 (v : Verdict) : (s.takeVerdict v).latch1 = s.latch1 := rfl
@[simp] theorem State.takeVerdict_latch2 (v : Verdict) : (s.takeVerdict v).latch2 = s.latch2 := rfl
@[simp] theorem State.takeVerdict_wi (v : Verdict) : (s.takeVerdict v).wi = s.wi := rfl
@[simp] theorem State.takeVerdict_base (v : Verdict) : (s.takeVerdict v).base = s.base := rfl
@[simp] theorem State.takeVerdict_bitmap (v : Verdict) : (s.takeVerdict v).bitmap = s.bitmap := rfl
@[simp] theorem State.takeVerdict_cyc (v : Verdict) : (s.takeVerdict v).cyc = s.nextCyc := rfl
@[simp] theorem State.takeVerdict_status (v : Verdict) : (s.takeVerdict v).status = v.status := rfl
@[simp] theorem State.takeVerdict_cause (v : Verdict) : (s.takeVerdict v).cause = s.cause := rfl

/-! Each field after a start. -/

@[simp] theorem State.startMatch_cfg (inp : List Chr) : (s.startMatch inp).cfg = s.cfg := rfl
@[simp] theorem State.startMatch_program (inp : List Chr) : (s.startMatch inp).program = s.program := rfl
@[simp] theorem State.startMatch_input (inp : List Chr) : (s.startMatch inp).input = inp := rfl
@[simp] theorem State.startMatch_edges (inp : List Chr) : (s.startMatch inp).edges = s.edges := rfl
@[simp] theorem State.startMatch_buf (inp : List Chr) : (s.startMatch inp).buf = (flush s.cfg.W).set 0 [0] := rfl
@[simp] theorem State.startMatch_latch1 (inp : List Chr) : (s.startMatch inp).latch1 = none := rfl
@[simp] theorem State.startMatch_latch2 (inp : List Chr) : (s.startMatch inp).latch2 = none := rfl
@[simp] theorem State.startMatch_wi (inp : List Chr) : (s.startMatch inp).wi = 0 := rfl
@[simp] theorem State.startMatch_base (inp : List Chr) : (s.startMatch inp).base = 0 := rfl
@[simp] theorem State.startMatch_bitmap (inp : List Chr) : (s.startMatch inp).bitmap = List.replicate s.cfg.W false := rfl
@[simp] theorem State.startMatch_cyc (inp : List Chr) : (s.startMatch inp).cyc = 0 := rfl
@[simp] theorem State.startMatch_status (inp : List Chr) : (s.startMatch inp).status = .running := rfl
@[simp] theorem State.startMatch_cause (inp : List Chr) : (s.startMatch inp).cause = 0 := rfl

/-! Each field after the passing of an edge. -/

@[simp] theorem State.edgePassed_cfg : (s.edgePassed).cfg = s.cfg := rfl
@[simp] theorem State.edgePassed_program : (s.edgePassed).program = s.program := rfl
@[simp] theorem State.edgePassed_input : (s.edgePassed).input = s.input := rfl
@[simp] theorem State.edgePassed_edges : (s.edgePassed).edges = s.edges.tail := rfl
@[simp] theorem State.edgePassed_buf : (s.edgePassed).buf = s.buf := rfl
@[simp] theorem State.edgePassed_latch1 : (s.edgePassed).latch1 = s.latch1 := rfl
@[simp] theorem State.edgePassed_latch2 : (s.edgePassed).latch2 = s.latch2 := rfl
@[simp] theorem State.edgePassed_wi : (s.edgePassed).wi = s.wi := rfl
@[simp] theorem State.edgePassed_base : (s.edgePassed).base = s.base := rfl
@[simp] theorem State.edgePassed_bitmap : (s.edgePassed).bitmap = s.bitmap := rfl
@[simp] theorem State.edgePassed_cyc : (s.edgePassed).cyc = s.cyc := rfl
@[simp] theorem State.edgePassed_status : (s.edgePassed).status = s.status := rfl
@[simp] theorem State.edgePassed_cause : (s.edgePassed).cause = s.cause := rfl

/-! Each field after the Continue commit. -/

@[simp] theorem State.commit_cfg (r : Stage2) : (s.commit r).cfg = s.cfg := rfl
@[simp] theorem State.commit_program (r : Stage2) : (s.commit r).program = s.program := rfl
@[simp] theorem State.commit_input (r : Stage2) : (s.commit r).input = s.input := rfl
@[simp] theorem State.commit_edges (r : Stage2) : (s.commit r).edges = s.edges := rfl
@[simp] theorem State.commit_buf (r : Stage2) : (s.commit r).buf = (s.writeback (s.cyclePushes r)).1 := rfl
@[simp] theorem State.commit_latch1 (r : Stage2) : (s.commit r).latch1 = s.fetch.1 := rfl
@[simp] theorem State.commit_latch2 (r : Stage2) : (s.commit r).latch2 = r.latch2 := rfl
@[simp] theorem State.commit_wi (r : Stage2) : (s.commit r).wi = s.wi := rfl
@[simp] theorem State.commit_base (r : Stage2) : (s.commit r).base = s.base := rfl
@[simp] theorem State.commit_bitmap (r : Stage2) : (s.commit r).bitmap = s.bitmap := rfl
@[simp] theorem State.commit_cyc (r : Stage2) : (s.commit r).cyc = s.cyc := rfl
@[simp] theorem State.commit_status (r : Stage2) : (s.commit r).status = s.status := rfl
@[simp] theorem State.commit_cause (r : Stage2) : (s.commit r).cause = s.cause := rfl

/-! Each field after the window slide. -/

@[simp] theorem State.slide_cfg : (s.slide).cfg = s.cfg := rfl
@[simp] theorem State.slide_program : (s.slide).program = s.program := rfl
@[simp] theorem State.slide_input : (s.slide).input = s.input := rfl
@[simp] theorem State.slide_edges : (s.slide).edges = s.edges := rfl
@[simp] theorem State.slide_buf : (s.slide).buf = s.buf := rfl
@[simp] theorem State.slide_latch1 : (s.slide).latch1 = s.latch1 := rfl
@[simp] theorem State.slide_latch2 : (s.slide).latch2 = s.latch2 := rfl
@[simp] theorem State.slide_wi : (s.slide).wi = s.wi + inactiveRun s.activity s.base s.cfg.W := rfl
@[simp] theorem State.slide_base : (s.slide).base = (s.base + inactiveRun s.activity s.base s.cfg.W) % s.cfg.W := rfl
@[simp] theorem State.slide_bitmap : (s.slide).bitmap = s.activity := rfl
@[simp] theorem State.slide_cyc : (s.slide).cyc = s.nextCyc := rfl
@[simp] theorem State.slide_status : (s.slide).status = s.status := rfl
@[simp] theorem State.slide_cause : (s.slide).cause = s.cause := rfl

/-! Each field after the placing of a word. -/

@[simp] theorem State.placeWord_cfg (w : Word) : (s.placeWord w).cfg = s.cfg := rfl
@[simp] theorem State.placeWord_program (w : Word) : (s.placeWord w).program = Memory.load s.program s.nextToRun.1.toNat w := rfl
@[simp] theorem State.placeWord_input (w : Word) : (s.placeWord w).input = s.input := rfl
@[simp] theorem State.placeWord_edges (w : Word) : (s.placeWord w).edges = noStart s.edges := rfl
@[simp] theorem State.placeWord_buf (w : Word) : (s.placeWord w).buf = s.nextToRun.2.2 := rfl
@[simp] theorem State.placeWord_latch1 (w : Word) : (s.placeWord w).latch1 = some { instr := w, pc := s.nextToRun.1, lane := s.nextToRun.2.1 } := rfl
@[simp] theorem State.placeWord_latch2 (w : Word) : (s.placeWord w).latch2 = s.latch2 := rfl
@[simp] theorem State.placeWord_wi (w : Word) : (s.placeWord w).wi = s.wi := rfl
@[simp] theorem State.placeWord_base (w : Word) : (s.placeWord w).base = s.base := rfl
@[simp] theorem State.placeWord_bitmap (w : Word) : (s.placeWord w).bitmap = s.bitmap := rfl
@[simp] theorem State.placeWord_cyc (w : Word) : (s.placeWord w).cyc = s.cyc := rfl
@[simp] theorem State.placeWord_status (w : Word) : (s.placeWord w).status = .running := rfl
@[simp] theorem State.placeWord_cause (w : Word) : (s.placeWord w).cause = 0 := rfl

/-! Each field after hiding bitmap and cyc. -/

@[simp] theorem State.hideBitmapCyc_cfg : (s.hideBitmapCyc).cfg = s.cfg := rfl
@[simp] theorem State.hideBitmapCyc_program : (s.hideBitmapCyc).program = s.program := rfl
@[simp] theorem State.hideBitmapCyc_input : (s.hideBitmapCyc).input = s.input := rfl
@[simp] theorem State.hideBitmapCyc_edges : (s.hideBitmapCyc).edges = s.edges := rfl
@[simp] theorem State.hideBitmapCyc_buf : (s.hideBitmapCyc).buf = s.buf := rfl
@[simp] theorem State.hideBitmapCyc_latch1 : (s.hideBitmapCyc).latch1 = s.latch1 := rfl
@[simp] theorem State.hideBitmapCyc_latch2 : (s.hideBitmapCyc).latch2 = s.latch2 := rfl
@[simp] theorem State.hideBitmapCyc_wi : (s.hideBitmapCyc).wi = s.wi := rfl
@[simp] theorem State.hideBitmapCyc_base : (s.hideBitmapCyc).base = s.base := rfl
@[simp] theorem State.hideBitmapCyc_bitmap : (s.hideBitmapCyc).bitmap = [] := rfl
@[simp] theorem State.hideBitmapCyc_cyc : (s.hideBitmapCyc).cyc = 0 := rfl
@[simp] theorem State.hideBitmapCyc_status : (s.hideBitmapCyc).status = s.status := rfl
@[simp] theorem State.hideBitmapCyc_cause : (s.hideBitmapCyc).cause = s.cause := rfl

/-! The Engine update: status apart, every field is the slide's. -/

@[simp] theorem State.engineUpdate_cfg : s.engineUpdate.cfg = s.slide.cfg := by
  unfold State.engineUpdate; split <;> rfl
@[simp] theorem State.engineUpdate_program : s.engineUpdate.program = s.slide.program := by
  unfold State.engineUpdate; split <;> rfl
@[simp] theorem State.engineUpdate_input : s.engineUpdate.input = s.slide.input := by
  unfold State.engineUpdate; split <;> rfl
@[simp] theorem State.engineUpdate_edges : s.engineUpdate.edges = s.slide.edges := by
  unfold State.engineUpdate; split <;> rfl
@[simp] theorem State.engineUpdate_buf : s.engineUpdate.buf = s.slide.buf := by
  unfold State.engineUpdate; split <;> rfl
@[simp] theorem State.engineUpdate_latch1 : s.engineUpdate.latch1 = s.slide.latch1 := by
  unfold State.engineUpdate; split <;> rfl
@[simp] theorem State.engineUpdate_latch2 : s.engineUpdate.latch2 = s.slide.latch2 := by
  unfold State.engineUpdate; split <;> rfl
@[simp] theorem State.engineUpdate_wi : s.engineUpdate.wi = s.slide.wi := by
  unfold State.engineUpdate; split <;> rfl
@[simp] theorem State.engineUpdate_base : s.engineUpdate.base = s.slide.base := by
  unfold State.engineUpdate; split <;> rfl
@[simp] theorem State.engineUpdate_bitmap : s.engineUpdate.bitmap = s.slide.bitmap := by
  unfold State.engineUpdate; split <;> rfl
@[simp] theorem State.engineUpdate_cyc : s.engineUpdate.cyc = s.slide.cyc := by
  unfold State.engineUpdate; split <;> rfl
@[simp] theorem State.engineUpdate_cause : s.engineUpdate.cause = s.slide.cause := by
  unfold State.engineUpdate; split <;> rfl

theorem State.engineUpdate_status :
    s.engineUpdate.status = if s.slide.matchOver then .refused else s.status := by
  unfold State.engineUpdate; split <;> rfl

/-! Derived reads that an update leaves alone. -/

@[simp] theorem State.takeFault_n (f : Fault) : (s.takeFault f).n = s.n := rfl
@[simp] theorem State.takeVerdict_n (v : Verdict) : (s.takeVerdict v).n = s.n := rfl
@[simp] theorem State.edgePassed_n : s.edgePassed.n = s.n := rfl
@[simp] theorem State.commit_n (r : Stage2) : (s.commit r).n = s.n := rfl
@[simp] theorem State.slide_n : s.slide.n = s.n := rfl
@[simp] theorem State.startMatch_n (inp : List Chr) : (s.startMatch inp).n = inp.length := rfl
@[simp] theorem State.commit_nextCyc (r : Stage2) : (s.commit r).nextCyc = s.nextCyc := rfl
@[simp] theorem State.edgePassed_nextCyc : s.edgePassed.nextCyc = s.nextCyc := rfl
@[simp] theorem State.edgePassed_firstNonEmpty : s.edgePassed.firstNonEmpty = s.firstNonEmpty := rfl
@[simp] theorem State.edgePassed_fetch : s.edgePassed.fetch = s.fetch := rfl
@[simp] theorem State.edgePassed_thread : s.edgePassed.thread = s.thread := rfl
@[simp] theorem State.edgePassed_stage3 : s.edgePassed.stage3 = s.stage3 := rfl

/-- The start edge gives the freshly built machine, the host's later edges apart (R243). -/
theorem State.startMatch_eq_initial (inp : List Chr) :
    s.startMatch inp = { State.initial s.cfg s.program inp with edges := s.edges } := rfl

end Sys2Proof.Machine
end

