-- ==== Sys2Proof/Laws/Ops.lean ====
section
/-! SUPPORT. One lemma for each shared operation of Machine/Ops.lean: what it can do, cited by later proofs
in place of unfolding it. -/

namespace Sys2Proof.Machine

/-! ### Arithmetic -/

theorem wrap_lt (k : Int) {n : Nat} (h : 0 < n) : wrap k n < n := by
  have := Int.emod_lt_of_pos k (b := (n : Int)) (by omega)
  have := Int.emod_nonneg k (b := (n : Int)) (by omega)
  unfold wrap; omega

theorem wrap_cast (k : Int) {n : Nat} (h : 0 < n) : ((wrap k n : Nat) : Int) = k % n := by
  have := Int.emod_nonneg k (b := (n : Int)) (by omega)
  unfold wrap; omega

/-! ### Program memory and input -/

/-- A loaded word is read back, and every other loaded entry reads as before. -/
theorem Memory.read_load_self (p : List Word) (a : Nat) (w : Word) :
    Memory.read (Memory.load p a w) a = some w := by
  unfold Memory.read Memory.load
  split
  · simp [*]
  · have h : (p ++ List.replicate (a - p.length) 0).length = a := by simp; omega
    rw [List.getElem?_append_right (by omega), h]
    simp

theorem Memory.read_load_other (p : List Word) {a b : Nat} (w : Word) (h : b ≠ a) (hb : b < p.length) :
    Memory.read (Memory.load p a w) b = Memory.read p b := by
  unfold Memory.read Memory.load
  split
  · simp [Ne.symm h]
  · rw [List.append_assoc, List.getElem?_append_left hb]

theorem Memory.length_load (p : List Word) (a : Nat) (w : Word) :
    (Memory.load p a w).length = max p.length (a + 1) := by
  unfold Memory.load
  split <;> simp <;> omega

/-- A load at a 9-bit address keeps the form of the program memory. -/
theorem Memory.wf_load {p : List Word} (pc : Pc) (w : Word) (h : Memory.wf p) :
    Memory.wf (Memory.load p pc.toNat w) := by
  have := pc.isLt
  unfold Memory.wf at *
  rw [Memory.length_load]; omega

theorem State.charRead_none_iff (s : State) (idx : Nat) : s.charRead idx = none ↔ s.n < idx := by
  unfold State.charRead State.n
  split
  · simp; omega
  · split <;> simp <;> omega

/-! ### The lane FIFOs -/

@[simp] theorem fifo_set_self (buf : List (List Pc)) {L : Nat} (q : List Pc) (h : L < buf.length) :
    fifo (buf.set L q) L = q := by simp [fifo, List.getD, h]

@[simp] theorem fifo_set_ne (buf : List (List Pc)) {L M : Nat} (q : List Pc) (h : M ≠ L) :
    fifo (buf.set L q) M = fifo buf M := by simp [fifo, List.getD, Ne.symm h]

@[simp] theorem fifo_replicate_nil (W L : Nat) : fifo (List.replicate W []) L = [] := by
  simp only [fifo, List.getD, List.getElem?_replicate]; split <;> rfl

theorem fifo_of_lt {buf : List (List Pc)} {L : Nat} (h : L < buf.length) : fifo buf L = buf[L] := by
  simp [fifo, List.getD, h]

theorem fifo_of_length_le {buf : List (List Pc)} {L : Nat} (h : buf.length ≤ L) : fifo buf L = [] := by
  simp [fifo, List.getD, h]

theorem isEmptyLane_iff (buf : List (List Pc)) (L : Nat) : isEmptyLane buf L = true ↔ fifo buf L = [] := by
  simp [isEmptyLane]

@[simp] theorem push_length (W : Nat) (buf : List (List Pc)) (L : Nat) (pc : Pc) :
    (push W buf L pc).1.length = buf.length := by unfold push; split <;> simp

/-- Pushes to lanes of the block raise nothing and append, in order, to each lane. -/
theorem pushAll_spec (W : Nat) (ps : List (Nat × Pc)) : ∀ buf : List (List Pc), buf.length = W →
    (∀ p ∈ ps, p.1 < W) →
    (pushAll W buf ps).2 = [] ∧ (pushAll W buf ps).1.length = W ∧
    ∀ L, fifo (pushAll W buf ps).1 L = fifo buf L ++ (ps.filter fun p => p.1 == L).map Prod.snd := by
  induction ps with
  | nil => intro buf hl _; simp [pushAll, hl]
  | cons p ps ih =>
    intro buf hl hps
    obtain ⟨M, pc⟩ := p
    have hM : M < W := hps (M, pc) (by simp)
    have hpush : push W buf M pc = (buf.set M (fifo buf M ++ [pc]), []) := by
      simp [push]; omega
    obtain ⟨h1, h2, h3⟩ := ih (push W buf M pc).1 (by simp [hl]) fun q hq => hps q (by simp [hq])
    refine ⟨by simp [pushAll, hpush] at h1 ⊢; exact h1, by simpa [pushAll] using h2, fun L => ?_⟩
    have h := h3 L
    simp only [pushAll]
    rw [h, hpush]
    by_cases hL : M = L
    · subst hL; simp [hl, hM]
    · simp [hL, Ne.symm hL]

/-- The pop of a non-empty queue. -/
theorem pop_cons {buf : List (List Pc)} {L : Nat} {pc : Pc} {rest : List Pc} (h : fifo buf L = pc :: rest) :
    pop buf L = (buf.set L rest, []) := by simp [pop, h]

@[simp] theorem pop_length (buf : List (List Pc)) (L : Nat) : (pop buf L).1.length = buf.length := by
  unfold pop; split <;> simp

theorem overflows_iff (depth : Option Nat) (buf : List (List Pc)) :
    overflows depth buf = true ↔ ∃ d, depth = some d ∧ ∃ L, L < buf.length ∧ d < (fifo buf L).length := by
  cases depth with
  | none => simp [overflows]
  | some d =>
    simp only [overflows, List.any_eq_true, decide_eq_true_eq, Option.some.injEq, exists_eq_left']
    constructor
    · rintro ⟨q, hq, hd⟩
      obtain ⟨L, hL, rfl⟩ := List.mem_iff_getElem.mp hq
      exact ⟨L, hL, by rwa [fifo_of_lt hL]⟩
    · rintro ⟨L, hL, hd⟩
      exact ⟨buf[L], List.getElem_mem hL, by rwa [fifo_of_lt hL] at hd⟩

/-! ### Scans -/

theorem mem_scanSet_lt {cfg : Config} {base L : Nat} (hW : 0 < cfg.W) (h : L ∈ scanSet cfg base) :
    L < cfg.W := by
  simp only [scanSet, List.mem_map] at h
  obtain ⟨k, -, rfl⟩ := h
  exact Nat.mod_lt _ hW

/-- What `FirstNonEmpty` finds is a lane of the scan set with a pending continuation. -/
theorem State.firstNonEmpty_some {s : State} {L : Nat} (h : s.firstNonEmpty = some L) :
    L ∈ scanSet s.cfg s.base ∧ fifo s.buf L ≠ [] := by
  refine ⟨List.mem_of_find?_eq_some h, ?_⟩
  have := List.find?_some h
  simpa [isEmptyLane] using this

theorem State.firstNonEmpty_lt {s : State} {L : Nat} (hW : 0 < s.cfg.W) (h : s.firstNonEmpty = some L) :
    L < s.cfg.W := mem_scanSet_lt hW (State.firstNonEmpty_some h).1

/-! ### Faults -/

theorem lowest_eq_none_iff (fs : List Fault) : lowest fs = none ↔ fs = [] := by
  cases fs with
  | nil => simp [lowest]
  | cons f fs =>
    simp only [lowest, reduceCtorEq, iff_false]
    split
    · simp
    · split <;> simp

/-- The lowest fault is one of the faults raised, and no other has a lower code. -/
theorem lowest_spec (fs : List Fault) : ∀ f, lowest fs = some f → f ∈ fs ∧ ∀ g ∈ fs, f.code ≤ g.code := by
  induction fs with
  | nil => simp [lowest]
  | cons a fs ih =>
    intro f h
    simp only [lowest] at h
    split at h
    · rename_i hn
      rw [lowest_eq_none_iff] at hn
      subst hn; cases h; simp
    · rename_i g hg
      obtain ⟨hm, hle⟩ := ih g hg
      split at h
      · rename_i hc
        cases h
        refine ⟨by simp, fun x hx => ?_⟩
        rcases List.mem_cons.mp hx with rfl | hx
        · exact BitVec.le_refl _
        · exact BitVec.le_trans hc (hle x hx)
      · rename_i hc
        cases h
        refine ⟨by simp [hm], fun x hx => ?_⟩
        rcases List.mem_cons.mp hx with rfl | hx
        · exact BitVec.le_of_lt (BitVec.not_le.mp hc)
        · exact hle x hx

theorem Fault.code_inj {f g : Fault} (h : f.code = g.code) : f = g := by
  cases f <;> cases g <;> first | rfl | (exact absurd h (by decide))

theorem Fault.code_ne_zero (f : Fault) : f.code ≠ 0 := by cases f <;> decide

end Sys2Proof.Machine
end

