-- ==== Sys2Proof/Laws/Pipeline.lean ====
section
/-! SUPPORT. What the thread read, the successor push, the scans, the cycle and the clock edge can do, each
said once. -/

namespace Sys2Proof.Machine

/-! ### Stage 2 -/

/-- A thread is read from a filled latch1 whose index does not exceed n. -/
theorem State.thread_eq_some_iff (s : State) (t : Thread) :
    s.thread = some t ↔ s.latch1 = some t.slot ∧ t.off = s.offset t.slot.lane ∧
      t.idx = s.charIndex t.slot.lane ∧ s.charRead t.idx = some t.c := by
  obtain ⟨sl, off, idx, c⟩ := t
  unfold State.thread
  cases s.latch1 with
  | none => simp
  | some sl' =>
    cases hc : s.charRead (s.charIndex sl'.lane) with
    | none =>
      simp only [hc, reduceCtorEq, Option.some.injEq, false_iff, not_and]
      rintro rfl - rfl
      simp [hc]
    | some c' =>
      simp only [hc, Option.some.injEq, Thread.mk.injEq]
      constructor
      · rintro ⟨rfl, rfl, rfl, rfl⟩; exact ⟨rfl, rfl, rfl, hc⟩
      · rintro ⟨rfl, rfl, rfl, h⟩
        rw [hc] at h
        exact ⟨rfl, rfl, rfl, Option.some.inj h⟩

theorem State.stage2_of_thread {s : State} {t : Thread} (h : s.thread = some t)
    (effect : Thread → Stage2) : s.stage2 effect = effect t := by
  unfold State.stage2; rw [h]

theorem State.stage2_of_no_thread {s : State} (h : s.thread = none) (effect : Thread → Stage2) :
    s.stage2 effect = .none := by
  unfold State.stage2; rw [h]

/-- `Succ(p, d)` pushes one continuation, or raises PcOutOfRange or WindowOverrun, and touches nothing
else. -/
theorem State.succ_cases (s : State) (t : Thread) (p d : Nat) (r : Stage2) :
    (512 ≤ p ∧ s.succ t p d r = r.raise .pcOutOfRange) ∨
    (p < 512 ∧ s.overruns t d = true ∧ s.succ t p d r = r.raise .windowOverrun) ∨
    (p < 512 ∧ s.overruns t d = false ∧ s.succ t p d r =
      { r with
        pushes := r.pushes ++ [((t.slot.lane + d) % s.cfg.W, BitVec.ofNat 9 p)]
        valid := true }) := by
  unfold State.succ
  by_cases hp : 512 ≤ p
  · simp [hp]
  · cases ho : s.overruns t d <;> simp [hp] <;> omega

/-- The window overruns only on a lane-advancing successor at offset W-1 under OVERRUN_POLICY = FAULT. -/
theorem State.overruns_iff (s : State) (t : Thread) (d : Nat) :
    s.overruns t d = true ↔
      d = 1 ∧ t.off + 1 = s.cfg.W ∧ s.cfg.overrunPolicy = .faultOnOverrun := by
  simp [State.overruns, and_assoc]

/-- Every instruction's meaning is the cycle with its effect in stage 2. -/
theorem exec_eq_cycle (i : Instr) (s : State) :
    exec i s = .next (s.cycle (s.stage2 (effectOf i s))) := by
  cases i <;> rfl

/-! ### The parts of the cycle -/

theorem headOf_ne_none_of_firstNonEmpty {s : State} {L : Nat} (h : s.firstNonEmpty = some L) :
    ∃ pc rest, fifo s.buf L = pc :: rest ∧ headOf s.buf L = some pc := by
  obtain ⟨pc, rest, hq⟩ := List.exists_cons_of_ne_nil (State.firstNonEmpty_some h).2
  exact ⟨pc, rest, hq, by simp [headOf, hq]⟩

/-- Stage 1 stalls, or fetches the head of the first non-empty lane, or raises FetchBeyondProgram. -/
theorem State.fetch_cases (s : State) :
    (s.firstNonEmpty = none ∧ s.fetch = (none, [])) ∨
    ∃ L pc, s.firstNonEmpty = some L ∧ headOf s.buf L = some pc ∧
      ((s.progRead pc = none ∧ s.fetch = (none, [.fetchBeyondProgram])) ∨
        ∃ w, s.progRead pc = some w ∧ s.fetch = (some ⟨w, pc, L⟩, [])) := by
  cases h : s.firstNonEmpty with
  | none => exact .inl ⟨rfl, by simp [State.fetch, h]⟩
  | some L =>
    obtain ⟨pc, rest, -, hh⟩ := headOf_ne_none_of_firstNonEmpty h
    refine .inr ⟨L, pc, rfl, hh, ?_⟩
    cases hr : s.progRead pc with
    | none => exact .inl ⟨rfl, by simp [State.fetch, h, hh, hr]⟩
    | some w => exact .inr ⟨w, rfl, by simp [State.fetch, h, hh, hr]⟩

/-- The pop after pushes that only lengthen queues: nothing is raised, the fetched lane loses its head and no
other lane changes. -/
theorem State.popFetched_spec {s : State} {b : List (List Pc)} (hW : 0 < s.cfg.W)
    (hl : b.length = s.cfg.W) (hq : ∀ L, fifo s.buf L ≠ [] → fifo b L ≠ []) :
    (s.popFetched b).2 = [] ∧ (s.popFetched b).1.length = s.cfg.W ∧
    ∀ L, fifo (s.popFetched b).1 L =
      if s.firstNonEmpty = some L then (fifo b L).tail else fifo b L := by
  unfold State.popFetched
  cases h : s.firstNonEmpty with
  | none => simp [hl]
  | some M =>
    have hM := State.firstNonEmpty_lt hW h
    obtain ⟨pc, rest, hc⟩ := List.exists_cons_of_ne_nil (hq M (State.firstNonEmpty_some h).2)
    simp only [pop_cons hc, List.length_set, hl, true_and]
    intro L
    by_cases hL : M = L
    · subst hL; simp [hl, hM, hc]
    · simp [hL, Ne.symm hL]

/-- The count of contiguous inactive lanes from the base: all before it are inactive, and the lane it stops
at, if there is one, is active. -/
theorem inactiveRun_spec (bitmap : List Bool) (base W : Nat) :
    inactiveRun bitmap base W ≤ W ∧
    (∀ j, j < inactiveRun bitmap base W → bitmap.getD ((base + j) % W) false = false) ∧
    (inactiveRun bitmap base W < W →
      bitmap.getD ((base + inactiveRun bitmap base W) % W) false = true) := by
  have key : ∀ (p : Nat → Bool) (n m : Nat),
      (((List.range' m n).takeWhile p).length ≤ n) ∧
      (∀ j, j < ((List.range' m n).takeWhile p).length → p (m + j) = true) ∧
      (((List.range' m n).takeWhile p).length < n →
        p (m + ((List.range' m n).takeWhile p).length) = false) := by
    intro p n
    induction n with
    | zero => intro m; simp
    | succ n ih =>
      intro m
      obtain ⟨h1, h2, h3⟩ := ih (m + 1)
      cases hp : p m with
      | false => simp [List.range'_succ, hp]
      | true =>
        simp only [List.range'_succ, List.takeWhile_cons, hp, if_true, List.length_cons]
        refine ⟨by omega, fun j hj => ?_, fun h => ?_⟩
        · cases j with
          | zero => exact hp
          | succ j => have := h2 j (by omega); rwa [show m + (j + 1) = m + 1 + j by omega]
        · have := h3 (by omega)
          rwa [show ∀ x, m + (x + 1) = m + 1 + x by intro x; omega]
  have h := key (fun k => !bitmap.getD ((base + k) % W) false) W 0
  simp only [Nat.zero_add, ← List.range_eq_range', Bool.not_eq_true', Bool.not_eq_false'] at h
  exact h

theorem State.laneActive_iff (s : State) (i : Nat) : s.laneActive i = true ↔ s.ActiveLane i := by
  simp only [State.laneActive, State.ActiveLane, Bool.or_eq_true, Bool.not_eq_true', latchOn, isEmptyLane,
    or_assoc, Option.any_eq_true, beq_iff_eq]
  simp

/-! ### The cycle and the edge -/

/-- A cycle ends in its lowest fault, else in its verdict, else in the Continue commit. -/
theorem State.cycle_cases (s : State) (r : Stage2) :
    (∃ f, lowest (s.cycleFaults r) = some f ∧ s.cycle r = s.takeFault f) ∨
    (s.cycleFaults r = [] ∧ ∃ v, r.verdict = some v ∧ s.cycle r = s.takeVerdict v) ∨
    (s.cycleFaults r = [] ∧ r.verdict = none ∧ s.cycle r = (s.commit r).engineUpdate) := by
  unfold State.cycle
  cases h : lowest (s.cycleFaults r) with
  | some f => exact .inl ⟨f, rfl, rfl⟩
  | none =>
    have hn := (lowest_eq_none_iff _).mp h
    cases hv : r.verdict with
    | some v => exact .inr (.inl ⟨hn, v, rfl, rfl⟩)
    | none => exact .inr (.inr ⟨hn, rfl, rfl⟩)

/-- A running block without a start runs the cycle of the instruction in latch1. -/
theorem step_of_cycling {s : State} (h : s.Cycling) :
    step s = .next (s.edgePassed.cycle s.stage2Now) := by
  obtain ⟨hl, hp, hs⟩ := h
  simp only [step, clockEdge, hl, hp, hs, if_true]
  unfold State.stage2Now
  cases s.latch1 with
  | none => rfl
  | some sl =>
    cases hd : decode sl.instr with
    | error e => simp only [hd]; rfl
    | ok i =>
      simp only [hd, exec_eq_cycle]
      cases i <;> rfl

/-- Everything an edge can do: a start, the holding of a halted block, or a cycle. -/
theorem step_cases {s u : State} (h : step s = .next u) :
    s.legal = true ∧
    ((∃ inp, s.startPin = some inp ∧ Config.inputFits s.cfg inp.length = true ∧
        u = s.edgePassed.startMatch inp) ∨
      (s.startPin = none ∧ s.status ≠ .running ∧ u = s.edgePassed) ∨
      (s.Cycling ∧ u = s.edgePassed.cycle s.stage2Now)) := by
  have hl : s.legal = true := by
    by_contra hl
    simp [step, clockEdge, hl] at h
  refine ⟨hl, ?_⟩
  cases hp : s.startPin with
  | some inp =>
    simp only [step, clockEdge, hl, hp, if_true] at h
    split at h
    · rename_i hf
      cases h; exact .inl ⟨inp, rfl, hf, rfl⟩
    · cases h
  | none =>
    by_cases hs : s.status = .running
    · have hc : s.Cycling := ⟨hl, hp, hs⟩
      rw [step_of_cycling hc] at h
      cases h; exact .inr (.inr ⟨hc, rfl⟩)
    · refine .inr (.inl ⟨rfl, hs, ?_⟩)
      simp only [step, clockEdge, hl, hp, if_true] at h
      cases hst : s.status <;> simp_all

end Sys2Proof.Machine
end

