-- ==== Sys2Proof/Laws/PerInstr.lean ====
section
/-! SUPPORT. Statements about every instruction as syntax, one lemma per constructor. -/

namespace Sys2Proof.Laws

/-- A match value of R82 (`op` in bits 15 to 13) with an operand below it has that opcode field and that
operand field. -/
theorem fields_of_match_value (op : BitVec 3) (k : Operand) :
    opcodeField ((op.zeroExtend 16 <<< 13) ||| k.zeroExtend 16) = op ∧
    operandField ((op.zeroExtend 16 <<< 13) ||| k.zeroExtend 16) = k := by
  constructor
  · apply BitVec.eq_of_getLsbD_eq
    intro i hi
    simp [opcodeField, hi, show 13 + i < 16 by omega]
  · apply BitVec.eq_of_getLsbD_eq
    intro i hi
    simp [operandField, hi, show i < 16 by omega]

/-- The encoding of an instruction carries its opcode in bits 15 to 13 and its operand in bits 12 to 0
(R81, R82). -/
def EncodeFields.Statement (i : Instr) : Prop :=
  opcodeField (encode i) = i.opcode ∧ operandField (encode i) = i.operand

theorem EncodeFields.accept (k : Operand) : EncodeFields.Statement (.accept k) :=
  fields_of_match_value 0 k

theorem EncodeFields.split (k : Operand) : EncodeFields.Statement (.split k) :=
  fields_of_match_value 1 k

theorem EncodeFields.matchChar (k : Operand) : EncodeFields.Statement (.matchChar k) :=
  fields_of_match_value 2 k

theorem EncodeFields.jmp (k : Operand) : EncodeFields.Statement (.jmp k) :=
  fields_of_match_value 3 k

theorem EncodeFields.endWithoutAccepting (k : Operand) : EncodeFields.Statement (.endWithoutAccepting k) :=
  fields_of_match_value 4 k

theorem EncodeFields.matchAny (k : Operand) : EncodeFields.Statement (.matchAny k) :=
  fields_of_match_value 5 k

theorem EncodeFields.acceptPartial (k : Operand) : EncodeFields.Statement (.acceptPartial k) :=
  fields_of_match_value 6 k

theorem EncodeFields.notMatch (k : Operand) : EncodeFields.Statement (.notMatch k) :=
  fields_of_match_value 7 k

end Sys2Proof.Laws
end

