-- ==== Sys2Proof/Tests/Slice0.lean ====
section
/-! SUPPORT. Tests of the model on the vectors of 95_test_vectors.md and on words written out from the
encoding tables, the smoke tests of the well-formedness checks, and a witness for the hypotheses of every
statement that has some. -/

namespace Sys2Proof.Tests

open Machine

/-! ### Decoding: words written out bit by bit from 30_encoding.md R81, R82 -/

theorem test_decode_accept : decode 0b0001111111111111 = .ok (.accept 0x1FFF) := by decide
theorem test_decode_split : decode 0b0010000000000011 = .ok (.split 3) := by decide
theorem test_decode_match : decode 0b0100000001100001 = .ok (.matchChar 0x61) := by decide
theorem test_decode_jmp : decode 0b0110001000000000 = .ok (.jmp 512) := by decide
theorem test_decode_end : decode 0b1001111111111111 = .ok (.endWithoutAccepting 0x1FFF) := by decide
theorem test_decode_matchAny : decode 0b1010000000000000 = .ok (.matchAny 0) := by decide
theorem test_decode_acceptPartial : decode 0b1100000000000001 = .ok (.acceptPartial 1) := by decide
theorem test_decode_notMatch : decode 0b1110000001111000 = .ok (.notMatch 0x78) := by decide
theorem test_decode_wide_opcode_rejected : decodeFields 8 0 = .error .malformedInstruction := by decide
theorem test_decodeTableWord_short : decodeTableWord 8 0x61 = some (.accept 0x61) := by decide
theorem test_decodeTableWord_too_long : decodeTableWord 32 0x4061 = none := by decide

/-! ### The well-formedness checks refuse an ill-formed term -/

theorem test_canonical_refuses_accept : Instr.isCanonical (.accept 1) = false := by decide
theorem test_canonical_refuses_end : Instr.isCanonical (.endWithoutAccepting 1) = false := by decide
theorem test_canonical_refuses_matchAny : Instr.isCanonical (.matchAny 1) = false := by decide
theorem test_canonical_refuses_acceptPartial : Instr.isCanonical (.acceptPartial 1) = false := by decide
theorem test_assemblable_refuses_split : Instr.isAssemblable (.split 512) = false := by decide
theorem test_assemblable_refuses_jmp : Instr.isAssemblable (.jmp 512) = false := by decide
theorem test_assemblable_refuses_accept : Instr.isAssemblable (.accept 1) = false := by decide
theorem test_assemblable_refuses_end : Instr.isAssemblable (.endWithoutAccepting 1) = false := by decide
theorem test_assemblable_refuses_matchAny : Instr.isAssemblable (.matchAny 1) = false := by decide
theorem test_assemblable_refuses_acceptPartial : Instr.isAssemblable (.acceptPartial 1) = false := by decide
theorem test_target_refuses_split : Instr.targetInRange 3 (.split 3) = false := by decide
theorem test_target_refuses_jmp : Instr.targetInRange 3 (.jmp 3) = false := by decide
theorem test_program_refuses_last_match : Instr.programChecks [.accept 0, .matchChar 0x61] = false := by decide
theorem test_program_refuses_far_jmp : Instr.programChecks [.jmp 2, .accept 0] = false := by decide
theorem test_program_accepts_example :
    Instr.programChecks [.matchChar 0x61, .matchChar 0x62, .accept 0] = true := by decide

/-! ### One cycle per opcode: 95_test_vectors.md §2.4 (W = 2, P = 8 words ACCEPT) -/

/-- The next state of an outcome. -/
def nextOf : Host.Outcome State Fault Refusal → Option State
  | .next u => some u
  | .fault _ => none
  | .refused _ => none

/-- The start state of a vector with base 0 and wi 0, in the machine of reset's parameters. -/
def vec (input : List Chr) (buf : List (List Pc)) (latch1 latch2 : Option Slot) : State :=
  { State.initial Config.ofReset (List.replicate 8 0) input with
    buf := buf
    latch1 := latch1
    latch2 := latch2 }

/-- V-O1. -/
theorem test_accept_at_sentinel :
    (nextOf (step (vec [0x61] [[], []] (some ⟨0x0000, 3, 1⟩) none))).map (fun u => (u.status, u.cyc)) =
      some (.accepted, 1) := by decide

/-- V-O30. -/
theorem test_accept_before_sentinel_dies :
    (nextOf (step (vec [0x61, 0x61] [[], []] (some ⟨0x0000, 1, 0⟩) none))).map (fun u => (u.status, u.wi)) =
      some (.refused, 2) := by decide

/-- V-O3. -/
theorem test_split_first_branch :
    (nextOf (step (vec [0x61, 0x61] [[], []] (some ⟨0x2006, 3, 1⟩) none))).map
      (fun u => (u.latch2, u.buf, u.wi, u.base)) =
      some (some ⟨0x2006, 3, 1⟩, [[], [4]], 1, 1) := by decide

/-- V-O18. -/
theorem test_split_push_order :
    (nextOf (step (vec [0x61, 0x61] [[6], []] (some ⟨0x2004, 3, 0⟩) (some ⟨0x2005, 2, 0⟩)))).map
      (fun u => (u.latch1, u.buf)) = some (some ⟨0x0000, 6, 0⟩, [[4, 5], []]) := by decide

/-- V-O5. -/
theorem test_match_hit :
    (nextOf (step (vec [0x61, 0x61] [[], []] (some ⟨0x4061, 2, 0⟩) none))).map
      (fun u => (u.buf, u.wi, u.base)) = some ([[], [3]], 1, 1) := by decide

/-- V-O26: the comparison is over 13 bits. -/
theorem test_match_wide_operand_misses :
    (nextOf (step (vec [0x61] [[], []] (some ⟨0x4161, 1, 0⟩) none))).map (fun u => (u.status, u.buf)) =
      some (.refused, [[], []]) := by decide

/-- V-O8. -/
theorem test_jmp :
    (nextOf (step (vec [0x61] [[], []] (some ⟨0x6007, 1, 0⟩) none))).map (fun u => (u.status, u.buf)) =
      some (.running, [[7], []]) := by decide

/-- V-O9. -/
theorem test_jmp_out_of_range :
    (nextOf (step (vec [0x61] [[], []] (some ⟨0x6200, 1, 0⟩) none))).map
      (fun u => (u.status, u.cause, u.latch1)) = some (.fault, 5, some ⟨0x6200, 1, 0⟩) := by decide

/-- V-O10. -/
theorem test_end_stops_the_match :
    (nextOf (step (vec [0x61] [[1], []] (some ⟨0x8000, 1, 0⟩) none))).map (fun u => (u.status, u.buf)) =
      some (.refused, [[1], []]) := by decide

/-- V-O29: suppressed, and then the Engine's end. -/
theorem test_end_suppressed :
    (nextOf (step (vec [] [[], [3]] (some ⟨0x8000, 1, 1⟩) none))).map
      (fun u => (u.status, u.latch1, u.wi)) = some (.refused, some ⟨0x0000, 3, 1⟩, 1) := by decide

/-- V-O11. -/
theorem test_matchAny_consumes_sentinel :
    (nextOf (step (vec [] [[], []] (some ⟨0xA000, 1, 0⟩) none))).map (fun u => (u.status, u.buf, u.wi)) =
      some (.refused, [[], [2]], 1) := by decide

/-- V-O7's overrun with MATCH_ANY: the successor of offset W-1 goes to the base lane. -/
theorem test_matchAny_aliases :
    (nextOf (step (vec [0x61, 0x61, 0x61] [[5], []] (some ⟨0xA000, 2, 1⟩) none))).map
      (fun u => (u.buf, u.wi)) = some ([[3], []], 0) := by decide

/-- V-O12. -/
theorem test_acceptPartial :
    (nextOf (step (vec [0x61] [[], []] (some ⟨0xC000, 1, 0⟩) none))).map (fun u => u.status) =
      some .accepted := by decide

/-- V-O16. -/
theorem test_acceptPartial_suppressed :
    (nextOf (step (vec [] [[], []] (some ⟨0xC000, 1, 1⟩) none))).map (fun u => (u.status, u.wi)) =
      some (.refused, 2) := by decide

/-- V-O13: the lane is not advanced. -/
theorem test_notMatch_pass :
    (nextOf (step (vec [0x62] [[], []] (some ⟨0xE061, 1, 0⟩) none))).map (fun u => (u.status, u.buf)) =
      some (.running, [[2], []]) := by decide

/-- V-O14. -/
theorem test_notMatch_dies :
    (nextOf (step (vec [0x61] [[], []] (some ⟨0xE061, 1, 0⟩) none))).map (fun u => (u.status, u.wi)) =
      some (.refused, 2) := by decide

/-- V-S6. -/
theorem test_mod :
    [wrap (-1) 2, wrap (-2) 3, wrap (-3) 3, wrap (-4) 3, wrap (-7) 4, wrap 5 3, wrap 0 1] =
      [1, 1, 0, 2, 1, 2, 0] := by decide

/-- V-R1: start with n = 2 on a machine that is in FAULT. -/
theorem test_start_resets :
    (nextOf (step { vec [0x61] [[3], []] none none with
      status := .fault, cause := 4, edges := [some [0x61, 0x62]] })).map
      (fun u => (u.status, u.cause, u.buf, u.n)) = some (.running, 0, [[0], []], 2) := by decide

/-- A placed word runs in the very next step. -/
theorem test_placed_word_runs :
    (nextOf (step (State.reset.withFetchWord 16 0xC000))).map (fun u => u.status) = some .accepted := by
  decide

end Sys2Proof.Tests
end

