-- ==== Sys2Proof/Tests/Witnesses.lean ====
section
/-! SUPPORT. For every statement that has hypotheses, concrete states and operands that meet all of them
together, at the boundary values of its clauses. -/

namespace Sys2Proof.Tests

open Machine

/-! ### The bench states -/

/-- Two lanes; the base lane 0 holds pc 5; latch1 holds the word `w` at `pc`, in `lane`; every one of the `P`
program words is `w`; the input is `inp`. -/
def bench (cfg : Config) (P : Nat) (inp : List Chr) (w : Word) (pc : Pc) (lane : Nat) : State :=
  { State.initial cfg (List.replicate P w) inp with
    buf := [[5], []]
    latch1 := some ⟨w, pc, lane⟩ }

/-- The parameters of the witnesses: reset's, with the named policy, depth and scan set. -/
def cfgOf (policy : OverrunPolicy) (depth : Option Nat) (scanLast : Bool) : Config :=
  { Config.ofReset with overrunPolicy := policy, fifoDepth := depth, scanLast := scanLast }

section
variable (policy : OverrunPolicy) (depth : Option Nat) (scanLast : Bool) (P : Nat) (inp : List Chr) (w : Word)
  (pc : Pc) (lane : Nat)

theorem bench_inv (hd : depth ≠ some 0) (hP : P ≤ 512) (hpc : pc.toNat < P) (hl : lane < 2) :
    (bench (cfgOf policy depth scanLast) P inp w pc lane).Inv where
  config := by
    simp only [bench, State.initial, cfgOf, Config.ofReset, Config.legal]
    simp [hd]
  memory := by simpa [bench, State.initial] using hP
  inputFits := rfl
  lanes := rfl
  bits := rfl
  base := by simp [bench, State.initial, cfgOf, Config.ofReset]
  latch1 := by
    intro sl h
    cases h
    exact ⟨hl, by simp [bench, State.initial, State.progRead, Memory.read, hpc]⟩
  latch2 := by intro sl h; cases h
  capacity := by
    intro d h L hL
    have h0 : d ≠ 0 := by rintro rfl; exact hd h
    have : L = 0 ∨ L = 1 := by
      have : L < 2 := hL
      omega
    rcases this with rfl | rfl
    · show 1 ≤ d
      omega
    · exact Nat.zero_le d
  counter := by intro w h; cases h
  cause := rfl
  window := Nat.zero_le _
  work := fun _ => ⟨Nat.zero_le _, rfl⟩

theorem bench_cycling (hd : depth ≠ some 0) (hP : P ≤ 512) (hpc : pc.toNat < P) :
    (bench (cfgOf policy depth scanLast) P inp w pc lane).Cycling := by
  refine ⟨?_, rfl, rfl⟩
  have h1 : Config.legal (cfgOf policy depth scanLast) = true := by
    simp only [cfgOf, Config.ofReset, Config.legal]
    simp [hd]
  have h2 : Config.inputFits (cfgOf policy depth scanLast) inp.length = true := rfl
  simp only [bench, State.initial, State.legal, State.n, h1, h2, List.length_replicate]
  simp
  omega

/-- The queue head pc 5 of lane 0 is fetched, below P. -/
theorem bench_fetchOk (hP : 5 < P) : (bench (cfgOf policy depth true) P inp w pc lane).FetchOk := by
  intro L q h hh
  have h0 : (bench (cfgOf policy depth true) P inp w pc lane).firstNonEmpty = some 0 := rfl
  rw [h0] at h
  cases h
  have h5 : headOf (bench (cfgOf policy depth true) P inp w pc lane).buf 0 = some 5 := rfl
  rw [h5] at hh
  cases hh
  simpa [bench, State.initial] using hP

theorem bench_room (ps : List (Nat × Pc)) :
    (bench (cfgOf policy none scanLast) P inp w pc lane).Room ps := by
  intro d h
  cases h
end

/-- What the statements about an instruction's result assume of the state and the thread. -/
def Ready (s : State) (t : Thread) : Prop :=
  s.Inv ∧ s.status = .running ∧ s.thread = some t ∧ s.FetchOk

/-- The bench with a full program, an unbounded depth and the input "a". -/
def ready (policy : OverrunPolicy) (w : Word) (pc : Pc) (lane : Nat) : State :=
  bench (cfgOf policy none true) 512 [0x61] w pc lane

theorem ready_inv (policy : OverrunPolicy) (w : Word) (pc : Pc) (lane : Nat) (hl : lane < 2) :
    (ready policy w pc lane).Inv :=
  bench_inv _ _ _ _ _ _ _ _ (by simp) (by simp) pc.isLt hl

theorem ready_cycling (policy : OverrunPolicy) (w : Word) (pc : Pc) (lane : Nat) :
    (ready policy w pc lane).Cycling :=
  bench_cycling _ _ _ _ _ _ _ _ (by simp) (by simp) pc.isLt

/-- Lane 0 reads 'a' at index 0. -/
theorem ready_lane0 (policy : OverrunPolicy) (w : Word) (pc : Pc) :
    Ready (ready policy w pc 0) ⟨⟨w, pc, 0⟩, 0, 0, 0x61⟩ :=
  ⟨ready_inv _ _ _ _ (by simp), rfl, rfl, bench_fetchOk _ _ _ _ _ _ _ (by simp)⟩

/-- Lane 1, at window offset W-1, reads the sentinel at index 1 = n. -/
theorem ready_lane1 (policy : OverrunPolicy) (w : Word) (pc : Pc) :
    Ready (ready policy w pc 1) ⟨⟨w, pc, 1⟩, 1, 1, 0x00⟩ :=
  ⟨ready_inv _ _ _ _ (by simp), rfl, rfl, bench_fetchOk _ _ _ _ _ _ _ (by simp)⟩

theorem ready_room (policy : OverrunPolicy) (w : Word) (pc : Pc) (lane : Nat) (ps : List (Nat × Pc)) :
    (ready policy w pc lane).Room ps := bench_room _ _ _ _ _ _ _ _

/-- The bench whose depth is 1, with a SPLIT in both latches: both cycles' pushes overflow lane 0. -/
def tight : State :=
  { bench (cfgOf .aliasBase (some 1) true) 512 [0x61] 0x2003 2 0 with latch2 := some ⟨0x2003, 2, 0⟩ }

theorem tight_inv : tight.Inv := by
  have h := bench_inv .aliasBase (some 1) true 512 [0x61] 0x2003 2 0 (by simp) (by simp) (by simp) (by simp)
  have hl : ∀ sl, tight.latch2 = some sl →
      tight.slotOk sl ∧ opcodeField sl.instr = 1 ∧ (operandField sl.instr).toNat < 512 := by
    intro sl hsl
    cases hsl
    exact ⟨h.latch1 _ rfl, by decide, by decide⟩
  exact ⟨h.config, h.memory, h.inputFits, h.lanes, h.bits, h.base, h.latch1, hl, h.capacity, h.counter,
    h.cause, h.window, h.work⟩

theorem tight_no_room : ¬ tight.Room ([(0, 3)] ++ tight.stage3) := by
  intro h
  have := h 1 rfl 0 (by decide)
  revert this
  decide

/-- The bench with a program of 8 words, small enough to evaluate. -/
def vecIdle : State := bench (cfgOf .aliasBase none true) 8 [0x61] 0 0 0

/-! ### The witnesses, in the order of the statements -/

theorem witness_EncodeOfDecode : ∃ w i, decode w = .ok i := ⟨0x4061, .matchChar 0x61, by decide⟩

theorem witness_IgnoredOperandBits : ∃ (s u : State) (w w' : Word) (pc : Pc) (L : Nat),
    w ≠ w' ∧ opcodeField w = opcodeField w' ∧ opcodeField w = 4 ∧
    step { s with latch1 := some ⟨w, pc, L⟩ } = .next u :=
  ⟨ready .aliasBase 0x8000 0 0, _, 0x8000, 0x9FFF, 0, 0, by decide, by decide, by decide,
    step_of_cycling (s := ready .aliasBase 0x8000 0 0) (ready_cycling _ _ _ _)⟩

theorem witness_ModIsCanonicalRemainder : (0 < 1) ∧ (0 < 1 ∧ (0 : Int) = 0 * ((1 : Nat) : Int) + (0 : Nat)) ∧
    (0 < 3) ∧ (2 < 3 ∧ (-4 : Int) = -2 * ((3 : Nat) : Int) + (2 : Nat)) := by decide

theorem witness_CharReadEndsAtSentinel :
    (ready .aliasBase 0 0 0).input[0]? = some 0x61 ∧ (ready .aliasBase 0 0 0).n = 1 ∧
    (ready .aliasBase 0 0 0).n < 2 := ⟨rfl, rfl, by decide⟩

theorem witness_ThreadReadsAtWindowIndex :
    (ready .aliasBase 0 0 1).Inv ∧ (ready .aliasBase 0 0 1).latch1 = some ⟨0, 0, 1⟩ ∧
    (ready .aliasBase 0 0 1).wi + 1 = (ready .aliasBase 0 0 1).n ∧
    (bench (cfgOf .aliasBase none true) 8 [] 0 0 1).Inv ∧
    (bench (cfgOf .aliasBase none true) 8 [] 0 0 1).n < (bench (cfgOf .aliasBase none true) 8 [] 0 0 1).wi + 1 :=
  ⟨ready_inv _ _ _ _ (by simp), rfl, rfl,
    bench_inv _ _ _ _ _ _ _ _ (by simp) (by simp) (by simp) (by simp), by decide⟩

theorem witness_PushAppendsAtTail : ([[4], []] : List (List Pc)).length = 2 ∧ (2 ≤ 2) ∧ (1 < 2) := by decide

theorem witness_PopRemovesHead :
    fifo [[3, 5], []] 1 = [] ∧ fifo [[3, 5], []] 0 = 3 :: [5] := by decide

theorem witness_HasReadyScansLanes :
    (ready .aliasBase 0 0 0).cfg.scanLast = true ∧ 0 < (ready .aliasBase 0 0 0).cfg.W := by decide

theorem witness_WriteOrderOfCycle : tight.Inv ∧
    (∀ p ∈ ({ Stage2.none with pushes := [(0, 3)] } : Stage2).pushes, p.1 < tight.cfg.W) ∧
    ¬ tight.Room ([(0, 3)] ++ tight.stage3) :=
  ⟨tight_inv, by decide, tight_no_room⟩

theorem witness_OutcomePriority :
    Fault.windowOverrun ∈ (ready .aliasBase 0 0 0).cycleFaults (Stage2.none.raise .windowOverrun) ∧
    (vecIdle.cycleFaults (Stage2.none.give .accepted) = [] ∧
      (Stage2.none.give .accepted).verdict = some .accepted) ∧
    (vecIdle.cycleFaults .none = [] ∧ Stage2.none.verdict = none) := by
  decide

theorem witness_ContinueCommitsAndUpdatesEngine : ∃ (s : State) (r : Stage2), s.Inv ∧ s.status = .running ∧
    (∀ p ∈ r.pushes, p.1 < s.cfg.W) ∧ (∀ sl, r.latch2 = some sl → sl.lane < s.cfg.W) ∧ s.FetchOk ∧
    s.Room (r.pushes ++ s.stage3) ∧ r.faults = [] ∧ r.verdict = none :=
  ⟨ready .aliasBase 0x2003 0 1, { Stage2.none with pushes := [(1, 1)], latch2 := some ⟨0x2003, 0, 1⟩ },
    ready_inv _ _ _ _ (by simp), rfl, by decide, by intro sl h; cases h; decide,
    (ready_lane1 _ _ _).2.2.2, ready_room _ _ _ _ _, rfl, rfl⟩

/-- A JMP(512) at pc 0 ends in FAULT. -/
theorem witness_FaultChangesOnlyItsRegisters : ∃ s u : State, s.Cycling ∧ step s = .next u ∧
    u.status = .fault :=
  ⟨ready .aliasBase 0x6200 0 0, _, ready_cycling _ _ _ _, step_of_cycling (ready_cycling _ _ _ _),
    by decide⟩

theorem witness_DefensiveCausesNeverArise : ∃ s u : State, s.Inv ∧ s.Cycling ∧ step s = .next u ∧
    u.status = .fault :=
  ⟨ready .aliasBase 0x6200 0 0, _, ready_inv _ _ _ _ (by simp), ready_cycling _ _ _ _,
    step_of_cycling (ready_cycling _ _ _ _), by decide⟩

/-- P = 5 and the head pc is 5. -/
theorem witness_FetchBeyondProgramFaults : ∃ (s : State) (L : Nat) (pc : Pc), s.Inv ∧ s.Cycling ∧
    s.firstNonEmpty = some L ∧ headOf s.buf L = some pc ∧ s.program.length ≤ pc.toNat :=
  ⟨bench (cfgOf .aliasBase none true) 5 [] 0xC000 0 0, 0, 5,
    bench_inv _ _ _ _ _ _ _ _ (by simp) (by simp) (by simp) (by simp),
    bench_cycling _ _ _ _ _ _ _ _ (by simp) (by simp) (by simp), rfl, rfl, by decide⟩

/-- Operand 512, and pc 511 with a success on each side of the comparison. -/
theorem witness_SuccessorPcOutOfRangeFaults :
    (∃ s t, Ready s t ∧ 512 ≤ (0x200 : Operand).toNat) ∧
    (∃ s t, Ready s t ∧ t.slot.pc.toNat = 511 ∧ t.c.zeroExtend 13 = (0x61 : Operand) ∧
      t.c.zeroExtend 13 ≠ (0x161 : Operand)) ∧
    (∃ (s : State) (sl : Slot), s.latch1 = some sl ∧ s.thread = none) :=
  ⟨⟨_, _, ready_lane0 .aliasBase 0x6200 0, by decide⟩,
    ⟨_, _, ready_lane0 .aliasBase 0x4061 511, by decide, by decide, by decide⟩,
    ⟨{ ready .aliasBase 0x6200 0 0 with input := [], wi := 1 }, _, rfl, by decide⟩⟩

theorem witness_OverflowFaults :
    (∃ (s : State) (r : Stage2), s.Inv ∧ (∀ p ∈ r.pushes, p.1 < s.cfg.W) ∧ s.FetchOk ∧ r.faults = [] ∧
      ¬ s.Room (r.pushes ++ s.stage3)) ∧
    (∃ s u : State, s.Inv ∧ s.Cycling ∧ s.cfg.fifoDepth = none ∧ step s = .next u) :=
  ⟨⟨tight, { Stage2.none with pushes := [(0, 3)] }, tight_inv, by decide,
      bench_fetchOk .aliasBase (some 1) 512 [0x61] 0x2003 2 0 (by simp), rfl, tight_no_room⟩,
    ⟨ready .aliasBase 0 0 0, _, ready_inv _ _ _ _ (by simp), ready_cycling _ _ _ _, rfl,
      step_of_cycling (ready_cycling _ _ _ _)⟩⟩

/-- Offset 1 = W-1 at pc 510, a MATCH of the sentinel that succeeds. -/
theorem witness_WindowOverrunFaults :
    (∃ s t, Ready s t ∧ s.Room s.stage3 ∧ s.cfg.overrunPolicy = .faultOnOverrun ∧ t.off + 1 = s.cfg.W ∧
      t.slot.pc.toNat < 511 ∧ t.c.zeroExtend 13 = (0 : Operand)) ∧
    (∃ s u : State, s.Inv ∧ s.Cycling ∧ s.cfg.overrunPolicy = .aliasBase ∧ step s = .next u) ∧
    (∃ s t, Ready s t ∧ s.cfg.overrunPolicy = .aliasBase ∧ t.off + 1 = s.cfg.W ∧ t.slot.pc.toNat < 511 ∧
      t.c.zeroExtend 13 = (0 : Operand)) :=
  ⟨⟨_, _, ready_lane1 .faultOnOverrun 0x4000 510, ready_room _ _ _ _ _, rfl, rfl, by decide, by decide⟩,
    ⟨ready .aliasBase 0 0 0, _, ready_inv _ _ _ _ (by simp), ready_cycling _ _ _ _, rfl,
      step_of_cycling (ready_cycling _ _ _ _)⟩,
    ⟨_, _, ready_lane1 .aliasBase 0x4000 510, rfl, rfl, by decide, by decide⟩⟩

/-- A counter of one bit, at each of its two values. -/
theorem witness_CycleCounterCounts :
    (∃ s u : State, s.Cycling ∧ step s = .next u ∧ s.cfg.cycW = none) ∧
    (∃ s u : State, s.Cycling ∧ step s = .next u ∧ s.cfg.cycW = some 1 ∧ s.cyc + 1 < 2 ^ 1) ∧
    (∃ s u : State, s.Cycling ∧ step s = .next u ∧ s.cfg.cycW = some 1 ∧ ¬ s.cyc + 1 < 2 ^ 1) := by
  have h : ∀ c, ({ vecIdle with cfg := { vecIdle.cfg with cycW := some 1 }, cyc := c } : State).Cycling :=
    fun c => ⟨rfl, rfl, rfl⟩
  exact ⟨⟨ready .aliasBase 0 0 0, _, ready_cycling _ _ _ _, step_of_cycling (ready_cycling _ _ _ _), rfl⟩,
    ⟨_, _, h 0, step_of_cycling (h 0), rfl, by decide⟩, ⟨_, _, h 1, step_of_cycling (h 1), rfl, by decide⟩⟩

/-- The sentinel at index n, and 'a' before it. -/
theorem witness_AcceptResult :
    (∃ s t, Ready s t ∧ s.Room s.stage3 ∧ t.c = s.cfg.sentinel) ∧
    (∃ s t, Ready s t ∧ s.Room s.stage3 ∧ t.c ≠ s.cfg.sentinel) :=
  ⟨⟨_, _, ready_lane1 .aliasBase 0 3, ready_room _ _ _ _ _, rfl⟩,
    ⟨_, _, ready_lane0 .aliasBase 0 3, ready_room _ _ _ _ _, by decide⟩⟩

theorem witness_SplitResult :
    (∃ s t, Ready s t ∧ (511 : Operand).toNat < 512 ∧ t.slot.pc.toNat < 511 ∧
      s.Room ((t.slot.lane, t.slot.pc + 1) :: s.stage3)) ∧
    (∃ s t, Ready s t ∧ t.slot.pc.toNat = 511 ∧ 512 ≤ (512 : Operand).toNat) :=
  ⟨⟨_, _, ready_lane0 .aliasBase 0x21FF 510, by decide, by decide, ready_room _ _ _ _ _⟩,
    ⟨_, _, ready_lane0 .aliasBase 0x2200 511, by decide, by decide⟩⟩

theorem witness_MatchResult :
    (∃ s t, Ready s t ∧ t.c.zeroExtend 13 = (0 : Operand) ∧ t.slot.pc.toNat < 511 ∧
      (s.cfg.overrunPolicy = .aliasBase ∧ t.off + 1 = s.cfg.W) ∧
      s.Room (((t.slot.lane + 1) % s.cfg.W, t.slot.pc + 1) :: s.stage3)) ∧
    (∃ s t, Ready s t ∧ t.c.zeroExtend 13 = (0x61 : Operand) ∧ t.slot.pc.toNat < 511 ∧
      (s.cfg.overrunPolicy = .faultOnOverrun ∧ t.off + 1 < s.cfg.W) ∧
      s.Room (((t.slot.lane + 1) % s.cfg.W, t.slot.pc + 1) :: s.stage3)) ∧
    (∃ s t, Ready s t ∧ t.c.zeroExtend 13 = (0x61 : Operand) ∧ t.slot.pc.toNat = 511) ∧
    (∃ s t, Ready s t ∧ t.c.zeroExtend 13 = (0 : Operand) ∧ t.slot.pc.toNat < 511 ∧
      s.cfg.overrunPolicy = .faultOnOverrun ∧ t.off + 1 = s.cfg.W ∧ s.Room s.stage3) ∧
    (∃ s t, Ready s t ∧ t.c.zeroExtend 13 ≠ (0x161 : Operand) ∧ s.Room s.stage3) :=
  ⟨⟨_, _, ready_lane1 .aliasBase 0x4000 510, by decide, by decide, ⟨rfl, rfl⟩, ready_room _ _ _ _ _⟩,
    ⟨_, _, ready_lane0 .faultOnOverrun 0x4061 510, by decide, by decide, ⟨rfl, by decide⟩,
      ready_room _ _ _ _ _⟩,
    ⟨_, _, ready_lane0 .aliasBase 0x4061 511, by decide, by decide⟩,
    ⟨_, _, ready_lane1 .faultOnOverrun 0x4000 510, by decide, by decide, rfl, rfl, ready_room _ _ _ _ _⟩,
    ⟨_, _, ready_lane0 .aliasBase 0x4161 0, by decide, ready_room _ _ _ _ _⟩⟩

theorem witness_JmpResult :
    (∃ s t, Ready s t ∧ (511 : Pc).toNat = (511 : Operand).toNat ∧
      s.Room ((t.slot.lane, (511 : Pc)) :: s.stage3)) ∧
    (∃ s t, Ready s t ∧ 512 ≤ (512 : Operand).toNat) :=
  ⟨⟨_, _, ready_lane0 .aliasBase 0x61FF 0, by decide, ready_room _ _ _ _ _⟩,
    ⟨_, _, ready_lane0 .aliasBase 0x6200 0, by decide⟩⟩

theorem witness_EndWithoutAcceptingResult : ∃ s t, Ready s t ∧ s.Room s.stage3 :=
  ⟨_, _, ready_lane0 .aliasBase 0x8000 0, ready_room _ _ _ _ _⟩

theorem witness_MatchAnyResult :
    (∃ s t, Ready s t ∧ t.slot.pc.toNat < 511 ∧ (s.cfg.overrunPolicy = .aliasBase ∧ t.off + 1 = s.cfg.W) ∧
      s.Room (((t.slot.lane + 1) % s.cfg.W, t.slot.pc + 1) :: s.stage3)) ∧
    (∃ s t, Ready s t ∧ t.slot.pc.toNat = 511) ∧
    (∃ s t, Ready s t ∧ t.slot.pc.toNat < 511 ∧ s.cfg.overrunPolicy = .faultOnOverrun ∧
      t.off + 1 = s.cfg.W ∧ s.Room s.stage3) :=
  ⟨⟨_, _, ready_lane1 .aliasBase 0xA000 510, by decide, ⟨rfl, rfl⟩, ready_room _ _ _ _ _⟩,
    ⟨_, _, ready_lane0 .aliasBase 0xA000 511, by decide⟩,
    ⟨_, _, ready_lane1 .faultOnOverrun 0xA000 510, by decide, rfl, rfl, ready_room _ _ _ _ _⟩⟩

theorem witness_AcceptPartialResult : ∃ s t, Ready s t ∧ s.Room s.stage3 :=
  ⟨_, _, ready_lane0 .aliasBase 0xC000 0, ready_room _ _ _ _ _⟩

theorem witness_NotMatchResult :
    (∃ s t, Ready s t ∧ t.c.zeroExtend 13 ≠ (0x161 : Operand) ∧ t.slot.pc.toNat < 511 ∧
      s.Room ((t.slot.lane, t.slot.pc + 1) :: s.stage3)) ∧
    (∃ s t, Ready s t ∧ t.c.zeroExtend 13 ≠ (0x161 : Operand) ∧ t.slot.pc.toNat = 511) ∧
    (∃ s t, Ready s t ∧ t.c.zeroExtend 13 = (0x61 : Operand) ∧ s.Room s.stage3) :=
  ⟨⟨_, _, ready_lane0 .aliasBase 0xE161 510, by decide, by decide, ready_room _ _ _ _ _⟩,
    ⟨_, _, ready_lane0 .aliasBase 0xE161 511, by decide, by decide⟩,
    ⟨_, _, ready_lane0 .aliasBase 0xE061 0, by decide, ready_room _ _ _ _ _⟩⟩

/-- Index 1 with n = 0, and index 1 with n = 1. -/
theorem witness_SuppressedThreadDoesNothing :
    (∃ (s : State) (sl : Slot), s.Inv ∧ s.status = .running ∧ s.latch1 = some sl ∧
      s.n < s.charIndex sl.lane ∧ s.FetchOk ∧ s.Room s.stage3) ∧
    (∃ (s : State) (sl : Slot), s.Inv ∧ s.status = .running ∧ s.latch1 = some sl ∧
      s.charIndex sl.lane = s.n) :=
  ⟨⟨bench (cfgOf .aliasBase none true) 8 [] 0xC000 0 1, ⟨0xC000, 0, 1⟩,
      bench_inv _ _ _ _ _ _ _ _ (by simp) (by simp) (by simp) (by simp), rfl, rfl, by decide,
      bench_fetchOk _ _ _ _ _ _ _ (by simp), bench_room _ _ _ _ _ _ _ _⟩,
    ⟨ready .aliasBase 0xC000 0 1, ⟨0xC000, 0, 1⟩, ready_inv _ _ _ _ (by simp), rfl, rfl, rfl⟩⟩

theorem witness_EmptyLatchIdles : ∃ s : State, s.Inv ∧ s.Cycling ∧ s.latch1 = none ∧ s.FetchOk ∧
    s.Room s.stage3 := by
  have h := ready_inv .aliasBase 0 0 0 (by simp)
  refine ⟨{ ready .aliasBase 0 0 0 with latch1 := none }, ?_, ready_cycling .aliasBase 0 0 0, rfl,
    (ready_lane0 .aliasBase 0 0).2.2.2, ready_room .aliasBase 0 0 0 _⟩
  exact ⟨h.config, h.memory, h.inputFits, h.lanes, h.bits, h.base, (by intro sl h; cases h), h.latch2,
    h.capacity, h.counter, h.cause, h.window, fun _ => ⟨Nat.zero_le _, rfl⟩⟩

theorem witness_StageThreeDeliversSecondBranch :
    (∃ s : State, s.Inv ∧ s.latch2 = none) ∧ (∃ (s : State) (sl : Slot), s.Inv ∧ s.latch2 = some sl) :=
  ⟨⟨ready .aliasBase 0 0 0, ready_inv _ _ _ _ (by simp), rfl⟩, ⟨tight, ⟨0x2003, 2, 0⟩, tight_inv, rfl⟩⟩

/-- The bench of P = 8 words SPLIT(3): two cycles that leave the block RUNNING. -/
theorem witness_SplitFansOutOverTwoCycles : ∃ (s u v : State) (t : Thread) (k : Operand), s.Inv ∧ s.Cycling ∧
    s.thread = some t ∧ decode t.slot.instr = .ok (.split k) ∧ step s = .next u ∧ u.Cycling ∧
    step u = .next v ∧ v.status = .running := by
  have hc : (bench (cfgOf .aliasBase none true) 8 [0x61] 0x2003 0 0).Cycling :=
    bench_cycling _ _ _ _ _ _ _ _ (by simp) (by simp) (by simp)
  have hu : ((bench (cfgOf .aliasBase none true) 8 [0x61] 0x2003 0 0).edgePassed.cycle
      (bench (cfgOf .aliasBase none true) 8 [0x61] 0x2003 0 0).stage2Now).Cycling := by
    refine ⟨?_, ?_, ?_⟩ <;> decide
  exact ⟨_, _, _, ⟨⟨0x2003, 0, 0⟩, 0, 0, 0x61⟩, 3,
    bench_inv .aliasBase none true 8 [0x61] 0x2003 0 0 (by simp) (by simp) (by simp) (by simp), hc, rfl,
    by decide, step_of_cycling hc, hu, step_of_cycling hu, by decide⟩

theorem witness_OverrunLaneIsBase :
    (∃ s t, Ready s t ∧ t.off + 1 = s.cfg.W) ∧ (∃ s t, Ready s t ∧ t.off + 1 ≠ s.cfg.W) ∧
    (∃ s : State, s.Inv ∧ s.cfg.W = 1 ∧ s.thread.isSome = true) := by
  refine ⟨⟨_, _, ready_lane1 .aliasBase 0 0, rfl⟩, ⟨_, _, ready_lane0 .aliasBase 0 0, by decide⟩, ?_⟩
  refine ⟨{ State.initial { Config.ofReset with W := 1 } [0] [] with latch1 := some ⟨0, 0, 0⟩ }, ?_, rfl,
    by decide⟩
  refine ⟨rfl, by decide, rfl, rfl, rfl, by decide, ?_, (by intro sl h; cases h), (by intro d h; cases h),
    (by intro w h; cases h), rfl, by decide, fun _ => ⟨by decide, by decide⟩⟩
  intro sl h
  cases h
  exact ⟨by decide, rfl⟩

theorem witness_ExecFrame : ∃ (i : Instr) (s u : State), s.Inv ∧ exec i s = .next u ∧
    (1 < s.cfg.W ∧ s.firstNonEmpty ≠ some 1 ∧ ∀ p ∈ s.cyclePushes (s.stage2 (effectOf i s)), p.1 ≠ 1) :=
  ⟨.jmp 7, ready .aliasBase 0x6007 0 0, _, ready_inv _ _ _ _ (by simp), exec_eq_cycle _ _, by decide,
    by decide, by decide⟩

theorem witness_AtMostOneSuccessor : ∃ s t, Ready s t := ⟨_, _, ready_lane0 .aliasBase 0 0⟩

theorem witness_StepRunsDecodedInstruction : ∃ (s : State) (sl : Slot), s.Cycling ∧ s.latch1 = some sl :=
  ⟨ready .aliasBase 0 0 0, _, ready_cycling _ _ _ _, rfl⟩

theorem witness_PlacedWordRunsNext : (ready .aliasBase 0 0 0).Inv := ready_inv _ _ _ _ (by simp)

theorem witness_HaltedBlockHolds : ∃ s : State, s.legal = true ∧ s.startPin = none ∧ s.status ≠ .running :=
  ⟨{ vecIdle with status := .fault, cause := 4 }, by decide, rfl, by decide⟩

theorem witness_OnlyStartLeavesHalt : ∃ s u : State, s.status ≠ .running ∧ step s = .next u ∧
    u.status ≠ s.status :=
  ⟨{ vecIdle with status := .fault, cause := 4, edges := [some []] }, _, by decide, rfl, by decide⟩

theorem witness_StartEdgeResets : ∃ (s : State) (inp : List Chr), s.legal = true ∧ s.startPin = some inp ∧
    Config.inputFits s.cfg inp.length = true :=
  ⟨{ vecIdle with edges := [some [0x61]] }, [0x61], by decide, rfl, rfl⟩

/-- A finite IDX_W of 2 bits, and the longest input that fits it with W = 2. -/
theorem witness_StartForgetsPreviousMatch : ∃ (s : State) (inp : List Chr), s.legal = true ∧
    s.startPin = some inp ∧ Config.inputFits s.cfg inp.length = true ∧
    Config.inputFits s.cfg (inp.length + 1) = false :=
  ⟨{ vecIdle with cfg := { vecIdle.cfg with idxW := some 2 }, edges := [some [0x61]], status := .accepted },
    [0x61], by decide, rfl, by decide, by decide⟩

theorem witness_EmptyScanSetRefused : ∃ s : State, s.cfg.scanLast = false ∧ s.cfg.W = 1 :=
  ⟨State.initial { Config.ofReset with W := 1, scanLast := false } [0] [], rfl, rfl⟩

theorem witness_FirstCycleFetchesPcZero : (State.initial Config.ofReset [0x4061] []).legal = true := by
  decide

theorem witness_ResetIsWellFormed : Config.legal Config.ofReset = true ∧ Memory.wf [] ∧
    Config.inputFits Config.ofReset 0 = true := by decide

theorem witness_StepKeepsWellFormed : ∃ s u : State, s.Inv ∧ step s = .next u :=
  ⟨_, _, ready_inv .aliasBase 0x4061 0 0 (by simp), step_of_cycling (ready_cycling _ _ _ _)⟩

/-- A MATCH that succeeds in the last active lane, so that the window slides. -/
theorem witness_ActiveLaneKeepsItsIndex : ∃ s u : State, s.Inv ∧ s.startPin = none ∧ step s = .next u ∧
    0 < s.cfg.W ∧ u.ActiveLane 0 :=
  ⟨_, _, ready_inv .aliasBase 0x4061 0 0 (by simp), rfl, step_of_cycling (ready_cycling _ _ _ _), by decide,
    (State.laneActive_iff _ _).mp (by decide)⟩

theorem witness_WindowMovesForward : ∃ s u : State, s.Inv ∧ s.startPin = none ∧ step s = .next u :=
  ⟨_, _, ready_inv .aliasBase 0x4061 0 0 (by simp), rfl, step_of_cycling (ready_cycling _ _ _ _)⟩

theorem witness_NoOverrunWithoutLastLane : ∃ s u : State, s.Inv ∧ s.LastOffsetFree ∧ step s = .next u ∧
    s.Cycling ∧ s.cfg.scanLast = false := by
  have hc := bench_cycling .faultOnOverrun none false 8 [0x61] 0xA000 0 0 (by simp) (by simp) (by simp)
  refine ⟨_, _, bench_inv .faultOnOverrun none false 8 [0x61] 0xA000 0 0 (by simp) (by simp) (by simp)
    (by simp), ?_, step_of_cycling hc, hc, rfl⟩
  intro _ sl h
  cases h
  decide

theorem witness_BitmapAndCounterAreNotRead : ∃ s s' u : State, s ≠ s' ∧ s.hideBitmapCyc = s'.hideBitmapCyc ∧
    step s = .next u :=
  ⟨vecIdle, { vecIdle with cyc := 9 }, _, by decide, rfl,
    step_of_cycling (s := vecIdle) ⟨by decide, rfl, rfl⟩⟩

/-- The same queues, once with a thread in latch1 and once without. -/
theorem witness_FetchReadsTheSnapshot : ∃ (s u u' : State) (l1 l2 : Option Slot), s.Cycling ∧
    step s = .next u ∧ step { s with latch1 := l1, latch2 := l2 } = .next u' ∧ u.status = .running ∧
    u'.status = .running ∧ s.latch1 ≠ l1 :=
  ⟨vecIdle, _, _, none, none, ⟨by decide, rfl, rfl⟩, step_of_cycling (s := vecIdle) ⟨by decide, rfl, rfl⟩,
    step_of_cycling (s := { vecIdle with latch1 := none, latch2 := none }) ⟨by decide, rfl, rfl⟩, by decide,
    by decide, by decide⟩

theorem witness_ProgramAndInputAreReadOnly : ∃ s u : State, step s = .next u :=
  ⟨_, _, step_of_cycling (ready_cycling .aliasBase 0 0 0)⟩

theorem witness_EveryAdmittedEdgeCompletes :
    (∃ (s : State) (inp : List Chr), s.legal = true ∧ s.startPin = some inp ∧
      Config.inputFits s.cfg inp.length = true) ∧
    (∃ s : State, s.legal = false) :=
  ⟨witness_StartEdgeResets, ⟨State.reset, by decide⟩⟩

theorem witness_AddressPortsInTheirCycle : ∃ (s : State) (L : Nat) (pc : Pc) (sl : Slot), s.Cycling ∧
    s.firstNonEmpty = some L ∧ headOf s.buf L = some pc ∧ pc.toNat < s.program.length ∧
    s.latch1 = some sl ∧ s.charIndex sl.lane ≤ s.n :=
  ⟨vecIdle, 0, 5, ⟨0, 0, 0⟩, ⟨by decide, rfl, rfl⟩, rfl, rfl, by decide, rfl, by decide⟩

end Sys2Proof.Tests
end

section
/-! SUPPORT. What the combination of parameters that R6 excludes does to the scans and to the clock edge. -/

namespace Sys2Proof.Machine

/-! ### Scans that leave the last lane out -/

theorem scanSet_of_scanLast_false {cfg : Config} (h : cfg.scanLast = false) (base : Nat) :
    scanSet cfg base = (List.range (cfg.W - 1)).map fun k => (base + k) % cfg.W := by
  simp [scanSet, h]

theorem scanSet_eq_nil_of_one_lane {cfg : Config} (h : cfg.scanLast = false) (hW : cfg.W = 1)
    (base : Nat) : scanSet cfg base = [] := by
  simp [scanSet_of_scanLast_false h, hW]

theorem State.firstNonEmpty_of_scanSet_nil {s : State} (h : scanSet s.cfg s.base = []) :
    s.firstNonEmpty = none := by
  simp [State.firstNonEmpty, h]

/-! ### What is not admitted is refused -/

/-- Admitted parameters never combine SCAN_LAST = false with W = 1 (R6). -/
theorem Config.scanLast_or_W_ne_one_of_legal {cfg : Config} (h : Config.legal cfg = true) :
    cfg.scanLast = true ∨ cfg.W ≠ 1 := by
  simp only [Config.legal, Bool.and_eq_true, Bool.or_eq_true, decide_eq_true_eq] at h
  obtain ⟨⟨⟨-, hscan⟩, -⟩, -⟩ := h
  exact hscan

theorem State.config_legal_of_legal {s : State} (h : s.legal = true) : Config.legal s.cfg = true := by
  simp only [State.legal, Bool.and_eq_true] at h
  obtain ⟨⟨⟨hcfg, -⟩, -⟩, -⟩ := h
  exact hcfg

/-- An Engine that is not admitted is refused at every edge, a start included. -/
theorem step_of_not_legal {s : State} (h : ¬ s.legal = true) : step s = .refused .parameters := by
  simp only [step, clockEdge, if_neg h]

/-! ### The obligation -/

/-- Settles O45: with one lane that no scan includes there is nothing to fetch, and the parameters are
not admitted, so the edge is refused. -/
theorem emptyScanSetRefused : Obligations.EmptyScanSetRefused := by
  intro s hscan hW
  have hnil : scanSet s.cfg s.base = [] := scanSet_eq_nil_of_one_lane hscan hW s.base
  have hillegal : ¬ s.legal = true := fun hlegal => by
    have hadmitted := Config.scanLast_or_W_ne_one_of_legal (State.config_legal_of_legal hlegal)
    simp [hscan, hW] at hadmitted
  exact ⟨hnil, State.firstNonEmpty_of_scanSet_nil hnil, step_of_not_legal hillegal⟩

end Sys2Proof.Machine
end

section
/-! SUPPORT. The decoder by the two fields of a word, and what a step does with the word in latch1. -/

namespace Sys2Proof

/-! ### The decoder and the two fields -/

theorem decodeFields_opcode_operand (i : Instr) : decodeFields i.opcode.toNat i.operand = .ok i := by
  cases i <;> rfl

/-- What the opcode map answers has the opcode and the operand it was given. -/
theorem opcode_operand_of_decodeFields {op : Nat} {k : Operand} {i : Instr}
    (h : decodeFields op k = .ok i) : i.opcode.toNat = op ∧ i.operand = k := by
  unfold decodeFields at h
  split at h <;> cases h <;> exact ⟨rfl, rfl⟩

/-- Only a value outside three bits is rejected (R84, R212). -/
theorem decodeFields_eq_error_iff (op : Nat) (k : Operand) :
    decodeFields op k = .error .malformedInstruction ↔ 8 ≤ op := by
  match op with
  | 0 | 1 | 2 | 3 | 4 | 5 | 6 | 7 => simp [decodeFields]
  | n + 8 => simp [decodeFields]

theorem exists_decodeFields_of_lt {op : Nat} (h : op < 8) (k : Operand) :
    ∃ i, decodeFields op k = .ok i := by
  cases hd : decodeFields op k with
  | ok i => exact ⟨i, rfl⟩
  | error e =>
    have hop := (decodeFields_eq_error_iff op k).mp hd
    omega

/-- A word decodes to the instruction of its two fields (R84). -/
theorem decode_eq_ok_iff (w : Word) (i : Instr) :
    decode w = .ok i ↔ i.opcode = opcodeField w ∧ i.operand = operandField w := by
  constructor
  · intro h
    obtain ⟨hop, hk⟩ := opcode_operand_of_decodeFields h
    exact ⟨BitVec.eq_of_toNat_eq hop, hk⟩
  · rintro ⟨hop, hk⟩
    rw [decode, ← hop, ← hk, decodeFields_opcode_operand]

theorem exists_decode (w : Word) : ∃ i, decode w = .ok i :=
  exists_decodeFields_of_lt (opcodeField w).isLt (operandField w)

/-- The encoding of every instruction carries its opcode and its operand in the two fields (R81, R82). -/
theorem opcodeField_operandField_encode (i : Instr) :
    opcodeField (encode i) = i.opcode ∧ operandField (encode i) = i.operand := by
  cases i with
  | accept k => exact Laws.EncodeFields.accept k
  | split k => exact Laws.EncodeFields.split k
  | matchChar k => exact Laws.EncodeFields.matchChar k
  | jmp k => exact Laws.EncodeFields.jmp k
  | endWithoutAccepting k => exact Laws.EncodeFields.endWithoutAccepting k
  | matchAny k => exact Laws.EncodeFields.matchAny k
  | acceptPartial k => exact Laws.EncodeFields.acceptPartial k
  | notMatch k => exact Laws.EncodeFields.notMatch k

/-! ### The opcodes that ignore the operand -/

/-- The opcodes whose operand has no meaning: ACCEPT, END_WITHOUT_ACCEPTING, MATCH_ANY and ACCEPT_PARTIAL
(R85). -/
def IgnoresOperand (op : BitVec 3) : Prop := op = 0 ∨ op = 4 ∨ op = 5 ∨ op = 6

theorem ne_one_of_ignoresOperand {op : BitVec 3} (h : IgnoresOperand op) : op ≠ 1 := by
  rcases h with rfl | rfl | rfl | rfl <;> decide

/-- With an ignored operand the canonical form is the one whose operand is 0 (R85). -/
theorem isCanonical_iff_of_ignoresOperand {i : Instr} (h : IgnoresOperand i.opcode) :
    i.isCanonical = true ↔ i.operand = 0 := by
  cases i with
  | accept k => exact beq_iff_eq
  | endWithoutAccepting k => exact beq_iff_eq
  | matchAny k => exact beq_iff_eq
  | acceptPartial k => exact beq_iff_eq
  | split k | matchChar k | jmp k | notMatch k => simp [IgnoresOperand, Instr.opcode] at h

namespace Machine

/-- Two words of one opcode that ignores the operand decode to instructions with one effect (R85). -/
theorem effectOf_eq_of_ignoresOperand {w w' : Word} (h : IgnoresOperand (opcodeField w))
    (hw : opcodeField w = opcodeField w') :
    ∃ i i', decode w = .ok i ∧ decode w' = .ok i' ∧ effectOf i = effectOf i' := by
  have key : ∀ f : Operand → Instr, (∀ k, (f k).opcode = opcodeField w) → (∀ k, (f k).operand = k) →
      (∀ k k', effectOf (f k) = effectOf (f k')) →
      ∃ i i', decode w = .ok i ∧ decode w' = .ok i' ∧ effectOf i = effectOf i' :=
    fun f hop hk heff => ⟨f (operandField w), f (operandField w'),
      (decode_eq_ok_iff _ _).mpr ⟨hop _, hk _⟩, (decode_eq_ok_iff _ _).mpr ⟨(hop _).trans hw, hk _⟩,
      heff _ _⟩
  rcases h with h | h | h | h
  · exact key .accept (fun _ => h.symm) (fun _ => rfl) (fun _ _ => rfl)
  · exact key .endWithoutAccepting (fun _ => h.symm) (fun _ => rfl) (fun _ _ => rfl)
  · exact key .matchAny (fun _ => h.symm) (fun _ => rfl) (fun _ _ => rfl)
  · exact key .acceptPartial (fun _ => h.symm) (fun _ => rfl) (fun _ _ => rfl)

/-! ### The state with another latch1 -/

/-- The state with the given latch1 (R24). -/
def State.withLatch1 (s : State) (l : Option Slot) : State := { s with latch1 := l }

@[simp] theorem State.latch1_withLatch1 (s : State) (l : Option Slot) : (s.withLatch1 l).latch1 = l := rfl

@[simp] theorem State.offset_withLatch1 (s : State) (l : Option Slot) (L : Nat) :
    (s.withLatch1 l).offset L = s.offset L := rfl

@[simp] theorem State.charIndex_withLatch1 (s : State) (l : Option Slot) (L : Nat) :
    (s.withLatch1 l).charIndex L = s.charIndex L := rfl

@[simp] theorem State.charRead_withLatch1 (s : State) (l : Option Slot) (idx : Nat) :
    (s.withLatch1 l).charRead idx = s.charRead idx := rfl

@[simp] theorem State.cycleFaults_withLatch1 (s : State) (l : Option Slot) (r : Stage2) :
    (s.withLatch1 l).cycleFaults r = s.cycleFaults r := rfl

/-- The Continue commit overwrites latch1 (R149). -/
@[simp] theorem State.commit_withLatch1 (s : State) (l : Option Slot) (r : Stage2) :
    (s.withLatch1 l).commit r = s.commit r := rfl

theorem State.thread_withLatch1 (s : State) (sl : Slot) :
    (s.withLatch1 (some sl)).thread = (s.charRead (s.charIndex sl.lane)).map fun c =>
      { slot := sl, off := s.offset sl.lane, idx := s.charIndex sl.lane, c := c } := by
  simp only [State.thread, State.latch1_withLatch1, State.charRead_withLatch1,
    State.charIndex_withLatch1, State.offset_withLatch1]
  cases s.charRead (s.charIndex sl.lane) <;> rfl

/-- Only SPLIT hands its word on, to stage 3 (R162); the effect of any other instruction reads of its thread
the pc, the lane, the offset and the character (R160). -/
theorem effectOf_withLatch1 {i : Instr} (hi : i.opcode ≠ 1) (s : State) (l l' : Option Slot)
    (w w' : Word) (pc : Pc) (L off idx : Nat) (c : Chr) :
    effectOf i (s.withLatch1 l) ⟨⟨w, pc, L⟩, off, idx, c⟩ =
      effectOf i (s.withLatch1 l') ⟨⟨w', pc, L⟩, off, idx, c⟩ := by
  cases i with
  | split k => exact absurd rfl hi
  | accept k | matchChar k | jmp k | endWithoutAccepting k | matchAny k | acceptPartial k
  | notMatch k => rfl

theorem State.stage2Now_withLatch1 (s : State) {sl : Slot} {i : Instr} (h : decode sl.instr = .ok i) :
    (s.withLatch1 (some sl)).stage2Now =
      (s.withLatch1 (some sl)).stage2 (effectOf i (s.withLatch1 (some sl))) := by
  simp only [State.stage2Now, State.latch1_withLatch1, h]

/-- Stage 2 does the same for two words of one opcode that ignores the operand (R85). -/
theorem State.stage2Now_eq_of_ignoresOperand (s : State) {w w' : Word} (pc : Pc) (L : Nat)
    (h : IgnoresOperand (opcodeField w)) (hw : opcodeField w = opcodeField w') :
    (s.withLatch1 (some ⟨w, pc, L⟩)).stage2Now = (s.withLatch1 (some ⟨w', pc, L⟩)).stage2Now := by
  obtain ⟨i, i', hi, hi', heff⟩ := effectOf_eq_of_ignoresOperand h hw
  have hsplit : i.opcode ≠ 1 := by
    rw [((decode_eq_ok_iff w i).mp hi).1]
    exact ne_one_of_ignoresOperand h
  rw [State.stage2Now_withLatch1 s (sl := ⟨w, pc, L⟩) hi,
    State.stage2Now_withLatch1 s (sl := ⟨w', pc, L⟩) hi', ← heff]
  simp only [State.stage2, State.thread_withLatch1]
  cases s.charRead (s.charIndex L) with
  | none => rfl
  | some c => exact effectOf_withLatch1 hsplit s _ _ w w' pc L _ _ c

/-- Outside stage 2 a cycle does not read latch1: a Continue cycle overwrites it, and a fault or a verdict
keeps it (R147 to R149). -/
theorem State.cycle_withLatch1 (s : State) (l : Option Slot) (r : Stage2) :
    ((s.withLatch1 l).cycle r).withLatch1 none = (s.cycle r).withLatch1 none := by
  simp only [State.cycle, State.cycleFaults_withLatch1, State.commit_withLatch1]
  cases lowest (s.cycleFaults r) with
  | some f => rfl
  | none => cases r.verdict <;> rfl

/-! ### The edges that perform no cycle, and the step -/

/-- A start edge performs the reset (R240). -/
theorem step_of_start {s : State} {inp : List Chr} (hl : s.legal = true) (hp : s.startPin = some inp)
    (hf : Config.inputFits s.cfg inp.length = true) : step s = .next (s.edgePassed.startMatch inp) := by
  simp only [step, clockEdge, hl, hp, hf, if_true]

/-- A halted block without a start keeps its state (R202). -/
theorem step_of_halted {s : State} (hl : s.legal = true) (hp : s.startPin = none)
    (hs : s.status ≠ .running) : step s = .next s.edgePassed := by
  simp only [step, clockEdge, hl, hp, if_true]
  cases hst : s.status with
  | running => exact absurd hst hs
  | accepted | refused | fault => rfl

/-- A step reads latch1 through the result of stage 2 only: two contents of latch1 with one result lead to
the same state, latch1 apart. -/
theorem step_withLatch1 {s u : State} {l l' : Option Slot}
    (h2 : (s.withLatch1 l).stage2Now = (s.withLatch1 l').stage2Now)
    (h : step (s.withLatch1 l) = .next u) :
    ∃ u', step (s.withLatch1 l') = .next u' ∧ u.withLatch1 none = u'.withLatch1 none := by
  obtain ⟨hl, ⟨inp, hp, hf, rfl⟩ | ⟨hp, hs, rfl⟩ | ⟨hc, rfl⟩⟩ := step_cases h
  · exact ⟨_, step_of_start (s := s.withLatch1 l') hl hp hf, rfl⟩
  · exact ⟨_, step_of_halted (s := s.withLatch1 l') hl hp hs, rfl⟩
  · refine ⟨_, step_of_cycling (s := s.withLatch1 l') hc, ?_⟩
    rw [h2]
    exact (State.cycle_withLatch1 s.edgePassed l _).trans (State.cycle_withLatch1 s.edgePassed l' _).symm

/-! ### The obligations -/

/-- Settles O2: the opcode field is below 8, so the opcode map answers, with the two fields it was given. -/
theorem decoderIsTotalByFields : Obligations.DecoderIsTotalByFields := by
  refine ⟨fun w => ?_, decodeFields_eq_error_iff⟩
  obtain ⟨i, hi⟩ := exists_decode w
  exact ⟨i, hi, (decode_eq_ok_iff w i).mp hi⟩

/-- Settles O5: a step reads latch1 through stage 2 only, whose result for these opcodes does not depend on
the operand bits. -/
theorem ignoredOperandBits : Obligations.IgnoredOperandBits := by
  constructor
  · intro s w w' pc L hw hop u hu
    exact step_withLatch1 (State.stage2Now_eq_of_ignoresOperand s pc L hop hw) hu
  · intro i hop
    obtain ⟨hopcode, hoperand⟩ := opcodeField_operandField_encode i
    rw [hopcode] at hop
    rw [hoperand]
    exact isCanonical_iff_of_ignoresOperand hop

end Machine
end Sys2Proof
end

section
/-! SUPPORT. The lane FIFOs: what a push and a pop do to every queue, what a scan finds, and the faults that
the writeback and stage 2 can raise. -/

namespace Sys2Proof.Machine

/-! ### Push and pop -/

theorem push_of_le {W L : Nat} (h : W ≤ L) (buf : List (List Pc)) (pc : Pc) :
    push W buf L pc = (buf, [.invalidLanePush]) := by simp [push, h]

theorem push_of_lt {W L : Nat} (h : L < W) (buf : List (List Pc)) (pc : Pc) :
    push W buf L pc = (buf.set L (fifo buf L ++ [pc]), []) := by simp [push, h]

/-- The pop of an empty queue. -/
theorem pop_nil {buf : List (List Pc)} {L : Nat} (h : fifo buf L = []) : pop buf L = (buf, [.popEmpty]) := by
  simp [pop, h]

/-- Only a lane that has a queue holds a continuation. -/
theorem lt_length_of_fifo_ne_nil {buf : List (List Pc)} {L : Nat} (h : fifo buf L ≠ []) :
    L < buf.length := by
  by_contra hL
  exact h (fifo_of_length_le (Nat.le_of_not_lt hL))

/-! ### Scans -/

/-- The number of lanes a scan visits (R105). -/
def Config.scanLength (cfg : Config) : Nat := if cfg.scanLast then cfg.W else cfg.W - 1

theorem scanSet_eq_map (cfg : Config) (base : Nat) :
    scanSet cfg base = (List.range (Config.scanLength cfg)).map fun k => (base + k) % cfg.W := rfl

/-- From any base, some count of steps around the window reaches each lane. -/
theorem exists_add_mod_eq {L W : Nat} (h : L < W) (base : Nat) : ∃ k, k < W ∧ (base + k) % W = L := by
  have hW : 0 < W := Nat.zero_lt_of_lt h
  refine ⟨(L + (W - base % W)) % W, Nat.mod_lt _ hW, ?_⟩
  have hround : base + (L + (W - base % W)) = L + W * (base / W + 1) := by
    have hdiv := Nat.div_add_mod base W
    have hmod := Nat.mod_lt base hW
    rw [Nat.mul_succ]
    omega
  rw [Nat.add_mod_mod, hround, Nat.add_mul_mod_self_left, Nat.mod_eq_of_lt h]

/-- With SCAN_LAST = true a scan visits exactly the lanes of the block, whatever the base is (R105). -/
theorem mem_scanSet_iff_of_scanLast {cfg : Config} (hlast : cfg.scanLast = true) (hW : 0 < cfg.W)
    (base L : Nat) : L ∈ scanSet cfg base ↔ L < cfg.W := by
  refine ⟨mem_scanSet_lt hW, fun hL => ?_⟩
  obtain ⟨k, hk, hkL⟩ := exists_add_mod_eq hL base
  rw [scanSet_eq_map]
  exact List.mem_map.mpr ⟨k, by simpa [Config.scanLength, hlast] using hk, hkL⟩

theorem State.hasReady_iff (s : State) :
    s.hasReady = true ↔ ∃ L ∈ scanSet s.cfg s.base, fifo s.buf L ≠ [] := by
  simp only [State.hasReady, List.any_eq_true, Bool.not_eq_true', ← Bool.not_eq_true, isEmptyLane_iff, ne_eq]

/-- The scan stops at the lane of the first step that meets a pending continuation (R107). -/
theorem State.firstNonEmpty_eq_some_iff (s : State) (L : Nat) :
    s.firstNonEmpty = some L ↔ ∃ k, k < Config.scanLength s.cfg ∧ L = (s.base + k) % s.cfg.W ∧
      fifo s.buf L ≠ [] ∧ ∀ j, j < k → fifo s.buf ((s.base + j) % s.cfg.W) = [] := by
  simp only [State.firstNonEmpty, scanSet_eq_map, List.find?_map, Option.map_eq_some_iff,
    List.find?_range_eq_some, Function.comp_apply, List.mem_range, Bool.not_not, isEmptyLane_iff,
    Bool.not_eq_true', ← Bool.not_eq_true]
  constructor
  · rintro ⟨k, ⟨hne, hk, hbefore⟩, rfl⟩
    exact ⟨k, hk, rfl, hne, hbefore⟩
  · rintro ⟨k, hk, rfl, hne, hbefore⟩
    exact ⟨k, ⟨hne, hk, hbefore⟩, rfl⟩

theorem State.firstNonEmpty_eq_none_iff (s : State) :
    s.firstNonEmpty = none ↔
      ∀ k, k < Config.scanLength s.cfg → fifo s.buf ((s.base + k) % s.cfg.W) = [] := by
  simp only [State.firstNonEmpty, scanSet_eq_map, List.find?_map, Option.map_eq_none_iff,
    List.find?_range_eq_none, Function.comp_apply, Bool.not_not, isEmptyLane_iff]

/-! ### The writeback -/

theorem State.Inv.W_pos {s : State} (h : s.Inv) : 0 < s.cfg.W := Nat.zero_lt_of_lt h.base

theorem State.Inv.stage3_lane_lt {s : State} (h : s.Inv) : ∀ p ∈ s.stage3, p.1 < s.cfg.W := by
  unfold State.stage3
  cases hl : s.latch2 with
  | none => simp
  | some sl =>
    obtain ⟨⟨hlane, -⟩, -⟩ := h.latch2 sl hl
    simpa using hlane

theorem State.Inv.cyclePushes_lane_lt {s : State} (h : s.Inv) {r : Stage2}
    (hr : ∀ p ∈ r.pushes, p.1 < s.cfg.W) : ∀ p ∈ s.cyclePushes r, p.1 < s.cfg.W := by
  intro p hp
  rcases List.mem_append.mp hp with hp | hp
  · exact hr p hp
  · exact h.stage3_lane_lt p hp

/-- With every push in a lane of the block, the writeback leaves each queue as R144 says and raises at most
BufferOverflow. -/
theorem State.Inv.writeback_spec {s : State} (h : s.Inv) {ps : List (Nat × Pc)}
    (hps : ∀ p ∈ ps, p.1 < s.cfg.W) :
    (s.writeback ps).1.length = s.cfg.W ∧
    (∀ L, fifo (s.writeback ps).1 L = s.queueAfter ps L) ∧
    (s.writeback ps).2 =
      if overflows s.cfg.fifoDepth (s.writeback ps).1 then [.bufferOverflow] else [] := by
  obtain ⟨hpush, hlen, hfifo⟩ := pushAll_spec s.cfg.W ps s.buf h.lanes hps
  have hkeeps : ∀ L, fifo s.buf L ≠ [] → fifo (pushAll s.cfg.W s.buf ps).1 L ≠ [] := by
    intro L hL
    simp [hfifo, hL]
  obtain ⟨hpop, hlen', hfifo'⟩ := State.popFetched_spec h.W_pos hlen hkeeps
  refine ⟨hlen', fun L => ?_, ?_⟩
  · exact (hfifo' L).trans (by simp only [State.queueAfter, hfifo])
  · simp only [State.writeback, hpush, hpop, List.nil_append]

/-- The capacity check fails exactly when some queue has no room (R111). -/
theorem State.Inv.overflows_writeback_iff {s : State} (h : s.Inv) {ps : List (Nat × Pc)}
    (hps : ∀ p ∈ ps, p.1 < s.cfg.W) :
    overflows s.cfg.fifoDepth (s.writeback ps).1 = true ↔ ¬ s.Room ps := by
  obtain ⟨hlen, hfifo, -⟩ := h.writeback_spec hps
  rw [overflows_iff, hlen]
  simp [State.Room, hfifo]

/-! ### The causes a cycle can raise -/

theorem State.FetchOk.fetch_faults {s : State} (h : s.FetchOk) : s.fetch.2 = [] := by
  obtain ⟨-, hf⟩ | ⟨L, pc, hL, hpc, ⟨hread, -⟩ | ⟨w, -, hf⟩⟩ := s.fetch_cases
  · simp [hf]
  · have hlt := h L pc hL hpc
    simp only [State.progRead, Memory.read, List.getElem?_eq_none_iff] at hread
    omega
  · simp [hf]

theorem State.eq_fetchBeyondProgram_of_mem_fetch {s : State} {f : Fault} (h : f ∈ s.fetch.2) :
    f = .fetchBeyondProgram := by
  obtain ⟨-, hf⟩ | ⟨L, pc, -, -, ⟨-, hf⟩ | ⟨w, -, hf⟩⟩ := s.fetch_cases
  · simp [hf] at h
  · simpa [hf] using h
  · simp [hf] at h

/-- An instruction in stage 2 raises and pushes nothing, or makes one successor, before which only the range
check of a SPLIT operand can raise a cause. -/
theorem effectOf_cases (i : Instr) (s : State) (t : Thread) :
    ((effectOf i s t).pushes = [] ∧ (effectOf i s t).faults = []) ∨
    ∃ p d r, effectOf i s t = s.succ t p d r ∧ r.pushes = [] ∧ ∀ f ∈ r.faults, f = .pcOutOfRange := by
  cases i with
  | accept k =>
    refine .inl ?_
    simp only [effectOf, acceptEffect]
    split <;> exact ⟨rfl, rfl⟩
  | endWithoutAccepting k | acceptPartial k => exact .inl ⟨rfl, rfl⟩
  | split k =>
    refine .inr ⟨_, _, _, rfl, ?_, ?_⟩
    · split <;> rfl
    · split <;> simp [Stage2.raise, Stage2.none]
  | jmp k | matchAny k => exact .inr ⟨_, _, .none, rfl, rfl, by simp [Stage2.none]⟩
  | matchChar k =>
    simp only [effectOf, matchEffect]
    split
    · exact .inr ⟨_, _, .none, rfl, rfl, by simp [Stage2.none]⟩
    · exact .inl ⟨rfl, rfl⟩
  | notMatch k =>
    simp only [effectOf, notMatchEffect]
    split
    · exact .inl ⟨rfl, rfl⟩
    · exact .inr ⟨_, _, .none, rfl, rfl, by simp [Stage2.none]⟩

/-- Stage 2 raises only PcOutOfRange and WindowOverrun, and pushes to lanes of the block. -/
theorem effectOf_faults_pushes (i : Instr) {s : State} (hW : 0 < s.cfg.W) (t : Thread) :
    (∀ f ∈ (effectOf i s t).faults, f = .pcOutOfRange ∨ f = .windowOverrun) ∧
    ∀ p ∈ (effectOf i s t).pushes, p.1 < s.cfg.W := by
  obtain ⟨hp, hf⟩ | ⟨p, d, r, he, hp, hf⟩ := effectOf_cases i s t
  · simp [hp, hf]
  · rw [he]
    obtain ⟨-, hs⟩ | ⟨-, -, hs⟩ | ⟨-, -, hs⟩ := s.succ_cases t p d r
    · simp only [hs, Stage2.raise, hp, List.mem_append, List.mem_singleton]
      exact ⟨fun f hmem => .inl (hmem.elim (hf f) id), by simp⟩
    · simp only [hs, Stage2.raise, hp, List.mem_append, List.mem_singleton]
      exact ⟨fun f hmem => hmem.imp_left (hf f), by simp⟩
    · simp only [hs, hp, List.nil_append, List.mem_singleton]
      refine ⟨fun f hmem => .inl (hf f hmem), ?_⟩
      rintro q rfl
      exact Nat.mod_lt _ hW

/-- Stage 2 of a cycle does nothing, or executes some instruction on its thread. -/
theorem State.stage2Now_cases (s : State) :
    s.stage2Now = .none ∨ ∃ i t, s.thread = some t ∧ s.stage2Now = effectOf i s t := by
  cases hl : s.latch1 with
  | none => exact .inl (by simp only [State.stage2Now, hl])
  | some sl =>
    obtain ⟨i, hi⟩ := exists_decode sl.instr
    have hnow : s.stage2Now = s.stage2 (effectOf i s) := by simp only [State.stage2Now, hl, hi]
    cases ht : s.thread with
    | none => exact .inl (hnow.trans (State.stage2_of_no_thread ht _))
    | some t => exact .inr ⟨i, t, rfl, hnow.trans (State.stage2_of_thread ht _)⟩

theorem State.stage2Now_faults_pushes {s : State} (hW : 0 < s.cfg.W) :
    (∀ f ∈ s.stage2Now.faults, f = .pcOutOfRange ∨ f = .windowOverrun) ∧
    ∀ p ∈ s.stage2Now.pushes, p.1 < s.cfg.W := by
  obtain hnow | ⟨i, t, -, hnow⟩ := s.stage2Now_cases
  · simp [hnow, Stage2.none]
  · rw [hnow]
    exact effectOf_faults_pushes i hW t

@[simp] theorem State.edgePassed_cycleFaults (s : State) (r : Stage2) :
    s.edgePassed.cycleFaults r = s.cycleFaults r := rfl

/-- From a well-formed state, the cause a cycle leaves in the register was raised in that cycle. -/
theorem State.Inv.mem_cycleFaults_of_cause {s u : State} (h : s.Inv) (hc : s.Cycling)
    (hu : step s = .next u) {g : Fault} (hg : u.cause = g.code) : g ∈ s.cycleFaults s.stage2Now := by
  have ⟨_, _, hrun⟩ := hc
  have hzero : s.cause = 0 := by simpa [hrun] using h.cause
  have hquiet : ∀ {v : State}, v.cause = s.cause → v.cause ≠ g.code := fun hv hvg =>
    g.code_ne_zero (hvg.symm.trans (hv.trans hzero))
  obtain rfl : s.edgePassed.cycle s.stage2Now = u := by simpa [step_of_cycling hc] using hu
  obtain ⟨f, hlow, hcyc⟩ | ⟨-, v, -, hcyc⟩ | ⟨-, -, hcyc⟩ := s.edgePassed.cycle_cases s.stage2Now
  · obtain ⟨hmem, -⟩ := lowest_spec _ f hlow
    rw [hcyc] at hg
    rwa [← Fault.code_inj hg]
  · exact absurd hg (hquiet (by simp [hcyc]))
  · exact absurd hg (hquiet (by simp [hcyc]))

/-- Where FIFO_DEPTH is unbounded no stage of a cycle raises BufferOverflow (R111). -/
theorem State.Inv.bufferOverflow_notMem_cycleFaults {s : State} (h : s.Inv)
    (hd : s.cfg.fifoDepth = none) : Fault.bufferOverflow ∉ s.cycleFaults s.stage2Now := by
  obtain ⟨hfaults, hpushes⟩ := State.stage2Now_faults_pushes h.W_pos
  obtain ⟨-, -, hwb⟩ := h.writeback_spec (h.cyclePushes_lane_lt hpushes)
  simp only [hd, overflows, Bool.false_eq_true, if_false] at hwb
  simp only [State.cycleFaults, hwb, List.append_nil, List.mem_append, not_or]
  refine ⟨fun hf => ?_, fun hf => ?_⟩
  · cases State.eq_fetchBeyondProgram_of_mem_fetch hf
  · rcases hfaults _ hf with h | h <;> cases h

/-- A queue without room is then the only cause of the cycle, which ends in BufferOverflow (R111, R217). -/
theorem State.Inv.cycle_of_no_room {s : State} (h : s.Inv) {r : Stage2}
    (hr : ∀ p ∈ r.pushes, p.1 < s.cfg.W) (hfetch : s.FetchOk) (hfaults : r.faults = [])
    (hroom : ¬ s.Room (s.cyclePushes r)) : s.cycle r = s.takeFault .bufferOverflow := by
  have hps := h.cyclePushes_lane_lt hr
  obtain ⟨-, -, hwb⟩ := h.writeback_spec hps
  rw [if_pos ((h.overflows_writeback_iff hps).mpr hroom)] at hwb
  have hcauses : s.cycleFaults r = [.bufferOverflow] := by
    simp [State.cycleFaults, hfetch.fetch_faults, hfaults, hwb]
  simp [State.cycle, hcauses, lowest]

/-! ### The obligations -/

/-- Settles O9. -/
theorem pushAppendsAtTail : Obligations.PushAppendsAtTail := by
  intro W buf L pc hlen
  refine ⟨fun h => push_of_le h buf pc, fun h => ?_⟩
  rw [push_of_lt h]
  exact ⟨rfl, fifo_set_self buf _ (hlen ▸ h), fun M hM => fifo_set_ne buf _ hM⟩

/-- Settles O10. -/
theorem popRemovesHead : Obligations.PopRemovesHead := by
  intro buf L
  refine ⟨pop_nil, fun pc rest hq => ?_⟩
  have hL : L < buf.length := lt_length_of_fifo_ne_nil (by simp [hq])
  rw [pop_cons hq]
  exact ⟨rfl, by simp [headOf, hq], fifo_set_self buf rest hL, fun M hM => fifo_set_ne buf rest hM⟩

/-- Settles O11. -/
theorem firstNonEmptyIsLowestOffset : Obligations.FirstNonEmptyIsLowestOffset := fun s =>
  ⟨s.firstNonEmpty_eq_some_iff, s.firstNonEmpty_eq_none_iff⟩

/-- Settles O12: with SCAN_LAST = true the scan set is the set of the block's lanes. -/
theorem hasReadyScansLanes : Obligations.HasReadyScansLanes := by
  intro s
  refine ⟨s.hasReady_iff, fun hlast hW => ?_⟩
  simp only [s.hasReady_iff, mem_scanSet_iff_of_scanLast hlast hW]

/-- Settles O21: the overflow is the only cause raised, and with an unbounded depth code 6 in the register
would name a cause that no stage raised. -/
theorem overflowFaults : Obligations.OverflowFaults := by
  constructor
  · intro s r hinv hr hfetch hfaults hroom
    exact hinv.cycle_of_no_room hr hfetch hfaults hroom
  · intro s u hinv hc hd hu hsix
    exact hinv.bufferOverflow_notMem_cycleFaults hd
      (hinv.mem_cycleFaults_of_cause hc hu (g := .bufferOverflow) hsix)

end Sys2Proof.Machine
end

section
/-! SUPPORT. The pipeline's cycle: the thread in stage 2, stage 3's push, the outcome of a cycle, and what its
Continue commit and the Engine update leave. -/

namespace Sys2Proof.Machine

/-! ### The thread in stage 2 -/

/-- The window offset of a lane is the canonical remainder of its distance from the base (R8, R135). -/
theorem State.offset_spec (s : State) (hW : 0 < s.cfg.W) (L : Nat) :
    s.offset L < s.cfg.W ∧ ∃ q : Int, (L : Int) - s.base = q * s.cfg.W + s.offset L := by
  refine ⟨wrap_lt _ hW, ((L : Int) - s.base) / s.cfg.W, ?_⟩
  rw [State.offset, wrap_cast _ hW, Int.ediv_mul_add_emod]

theorem State.exists_charRead_of_le {s : State} {idx : Nat} (h : idx ≤ s.n) :
    ∃ c, s.charRead idx = some c :=
  Option.ne_none_iff_exists'.mp fun hnone =>
    absurd ((s.charRead_none_iff idx).mp hnone) (Nat.not_lt.mpr h)

/-- The character at the input's end is the sentinel (R64). -/
@[simp] theorem State.charRead_n (s : State) : s.charRead s.n = some s.cfg.sentinel := by
  simp [State.charRead]

/-- An empty latch1 leaves stage 2 idle (R134). -/
theorem State.thread_of_latch1_none {s : State} (h : s.latch1 = none) : s.thread = none := by
  simp only [State.thread, h]

theorem State.thread_of_latch1 {s : State} {sl : Slot} (h : s.latch1 = some sl) :
    s.thread = (s.charRead (s.charIndex sl.lane)).map fun c =>
      { slot := sl, off := s.offset sl.lane, idx := s.charIndex sl.lane, c := c } := by
  have hself : s.withLatch1 (some sl) = s := by rw [← h]; rfl
  rw [← s.thread_withLatch1 sl, hself]

/-- An index above n suppresses the execution (R136). -/
theorem State.thread_of_suppressed {s : State} {sl : Slot} (h : s.latch1 = some sl)
    (hidx : s.n < s.charIndex sl.lane) : s.thread = none := by
  rw [State.thread_of_latch1 h, (s.charRead_none_iff _).mpr hidx, Option.map_none]

/-! ### Stage 3 -/

/-- A SPLIT operand below 512 is delivered as it is (R142). -/
theorem Slot.splitTarget_toNat {sl : Slot} (h : (operandField sl.instr).toNat < 512) :
    sl.splitTarget.toNat = (operandField sl.instr).toNat := by
  rw [Slot.splitTarget, BitVec.truncate, BitVec.toNat_setWidth, Nat.mod_eq_of_lt h]

theorem State.stage3_of_latch2_none {s : State} (h : s.latch2 = none) : s.stage3 = [] := by
  simp only [State.stage3, h]

theorem State.stage3_of_latch2 {s : State} {sl : Slot} (h : s.latch2 = some sl) :
    s.stage3 = [(sl.lane, sl.splitTarget)] := by
  simp only [State.stage3, h]

/-! ### The latch that stage 1 fills -/

theorem State.fetch_latch_of_stall {s : State} (h : s.firstNonEmpty = none) : s.fetch.1 = none := by
  simp only [State.fetch, h]

theorem State.fetch_latch_of_read {s : State} {L : Nat} {pc : Pc} {w : Word}
    (hL : s.firstNonEmpty = some L) (hpc : headOf s.buf L = some pc) (hw : s.progRead pc = some w) :
    s.fetch.1 = some { instr := w, pc := pc, lane := L } := by
  simp only [State.fetch, hL, hpc, hw]

/-- Stage 1 fetches from a lane of the block. -/
theorem State.fetch_lane_lt {s : State} (hW : 0 < s.cfg.W) {sl : Slot} (h : s.fetch.1 = some sl) :
    sl.lane < s.cfg.W := by
  obtain ⟨-, hf⟩ | ⟨L, pc, hL, -, ⟨-, hf⟩ | ⟨w, -, hf⟩⟩ := s.fetch_cases
  · simp [hf] at h
  · simp [hf] at h
  · obtain rfl : (⟨w, pc, L⟩ : Slot) = sl := by simpa [hf] using h
    exact State.firstNonEmpty_lt hW hL

/-! ### The outcome of a cycle -/

theorem State.cycle_of_mem_cycleFaults {s : State} {r : Stage2} {f : Fault} (hf : f ∈ s.cycleFaults r) :
    ∃ g ∈ s.cycleFaults r, (∀ h ∈ s.cycleFaults r, g.code ≤ h.code) ∧ s.cycle r = s.takeFault g := by
  obtain ⟨g, hlow, hcyc⟩ | ⟨hnil, -⟩ | ⟨hnil, -⟩ := s.cycle_cases r
  · obtain ⟨hmem, hle⟩ := lowest_spec _ g hlow
    exact ⟨g, hmem, hle, hcyc⟩
  · simp [hnil] at hf
  · simp [hnil] at hf

theorem State.cycle_of_verdict {s : State} {r : Stage2} {v : Verdict} (hnil : s.cycleFaults r = [])
    (hv : r.verdict = some v) : s.cycle r = s.takeVerdict v := by
  simp only [State.cycle, hnil, lowest, hv]

theorem State.cycle_of_continue {s : State} {r : Stage2} (hnil : s.cycleFaults r = [])
    (hv : r.verdict = none) : s.cycle r = (s.commit r).engineUpdate := by
  simp only [State.cycle, hnil, lowest, hv]

theorem Verdict.status_ne_fault (v : Verdict) : v.status ≠ .fault := by
  cases v <;> simp [Verdict.status]

/-- From a running block only a cycle in which a cause was raised ends in FAULT (R145). -/
theorem State.cycleFaults_ne_nil_of_fault {s : State} {r : Stage2} (hrun : s.status = .running)
    (h : (s.cycle r).status = .fault) : s.cycleFaults r ≠ [] := by
  intro hnil
  cases hv : r.verdict with
  | some v =>
    rw [State.cycle_of_verdict hnil hv] at h
    exact v.status_ne_fault h
  | none =>
    rw [State.cycle_of_continue hnil hv, State.engineUpdate_status, State.commit_status, hrun] at h
    split at h <;> cases h

/-- The writeback raises nothing exactly when every queue has room (R111, R144). -/
theorem State.Inv.writeback_faults_eq_nil_iff {s : State} (h : s.Inv) {ps : List (Nat × Pc)}
    (hps : ∀ p ∈ ps, p.1 < s.cfg.W) : (s.writeback ps).2 = [] ↔ s.Room ps := by
  obtain ⟨-, -, hwb⟩ := h.writeback_spec hps
  rw [← not_iff_not, ← h.overflows_writeback_iff hps, hwb]
  cases overflows s.cfg.fifoDepth (s.writeback ps).1 <;> simp

theorem State.Inv.writeback_faults_of_no_room {s : State} (h : s.Inv) {ps : List (Nat × Pc)}
    (hps : ∀ p ∈ ps, p.1 < s.cfg.W) (hroom : ¬ s.Room ps) :
    (s.writeback ps).2 = [.bufferOverflow] := by
  obtain ⟨-, -, hwb⟩ := h.writeback_spec hps
  rw [hwb, if_pos ((h.overflows_writeback_iff hps).mpr hroom)]

/-- No stage raises a cause when stage 1 fetches inside the program, stage 2 raises nothing and every queue
has room. -/
theorem State.Inv.cycleFaults_eq_nil {s : State} (h : s.Inv) {r : Stage2}
    (hr : ∀ p ∈ r.pushes, p.1 < s.cfg.W) (hfetch : s.FetchOk) (hfaults : r.faults = [])
    (hroom : s.Room (s.cyclePushes r)) : s.cycleFaults r = [] := by
  have hwb := (h.writeback_faults_eq_nil_iff (h.cyclePushes_lane_lt hr)).mpr hroom
  simp [State.cycleFaults, hfetch.fetch_faults, hfaults, hwb]

/-! ### The Engine update -/

@[simp] theorem State.activeLane_slide (s : State) (i : Nat) : s.slide.ActiveLane i ↔ s.ActiveLane i :=
  Iff.rfl

@[simp] theorem State.activeLane_engineUpdate (s : State) (i : Nat) :
    s.engineUpdate.ActiveLane i ↔ s.ActiveLane i := by
  simp [State.ActiveLane]

/-- The recomputed bitmap names the active lanes (R192). -/
theorem State.activity_getElem?_iff (s : State) {i : Nat} (hi : i < s.cfg.W) :
    s.activity[i]? = some true ↔ s.ActiveLane i := by
  simp [State.activity, hi, s.laneActive_iff]

theorem State.activity_getD_iff (s : State) {i : Nat} (hi : i < s.cfg.W) :
    s.activity.getD i false = true ↔ s.ActiveLane i := by
  simp [State.activity, List.getD, hi, s.laneActive_iff]

/-- The window slides over the contiguous inactive lanes at the base, and over no other (R193, R194). -/
theorem State.slide_spec (s : State) (hW : 0 < s.cfg.W) :
    ∃ k, k ≤ s.cfg.W ∧ s.slide.wi = s.wi + k ∧ s.slide.base = (s.base + k) % s.cfg.W ∧
      (∀ j, j < k → ¬ s.ActiveLane ((s.base + j) % s.cfg.W)) ∧
      (k < s.cfg.W → s.ActiveLane s.slide.base) := by
  obtain ⟨hle, hinactive, hactive⟩ := inactiveRun_spec s.activity s.base s.cfg.W
  refine ⟨_, hle, rfl, rfl, fun j hj hact => ?_, fun hk => ?_⟩
  · have hbit := (s.activity_getD_iff (Nat.mod_lt _ hW)).mpr hact
    rw [hinactive j hj] at hbit
    cases hbit
  · exact (s.activity_getD_iff (Nat.mod_lt _ hW)).mp (hactive hk)

theorem all_isEmpty_iff (buf : List (List Pc)) :
    buf.all (fun q => q.isEmpty) = true ↔ ∀ L, L < buf.length → fifo buf L = [] := by
  simp only [List.all_eq_true, List.isEmpty_iff, List.forall_mem_iff_getElem]
  exact forall₂_congr fun L hL => by rw [fifo_of_lt hL]

/-- No thread is left exactly when no lane of the block is active (R192, R195). -/
theorem State.noThreadLeft_iff {s : State} (hlen : s.buf.length = s.cfg.W)
    (hl1 : ∀ sl, s.latch1 = some sl → sl.lane < s.cfg.W)
    (hl2 : ∀ sl, s.latch2 = some sl → sl.lane < s.cfg.W) :
    s.noThreadLeft = true ↔ ∀ i, i < s.cfg.W → ¬ s.ActiveLane i := by
  simp only [State.noThreadLeft, Bool.and_eq_true, all_isEmpty_iff, Option.isNone_iff_eq_none, hlen,
    State.ActiveLane, not_or]
  constructor
  · rintro ⟨⟨hq, h1⟩, h2⟩ i hi
    simp [hq i hi, h1, h2]
  · intro h
    refine ⟨⟨fun L hL => not_not.mp (h L hL).1, ?_⟩, ?_⟩
    · refine Option.eq_none_iff_forall_ne_some.mpr fun sl hsl => ?_
      exact (h sl.lane (hl1 sl hsl)).2.1 ⟨sl, hsl, rfl⟩
    · refine Option.eq_none_iff_forall_ne_some.mpr fun sl hsl => ?_
      exact (h sl.lane (hl2 sl hsl)).2.2 ⟨sl, hsl, rfl⟩

theorem State.engineUpdate_status_cases {s : State} (hrun : s.status = .running) :
    s.engineUpdate.status = .refused ∨ s.engineUpdate.status = .running := by
  rw [State.engineUpdate_status, hrun]
  split
  · exact .inl rfl
  · exact .inr rfl

/-- The end test: the window has passed the input, or no thread is left (R195). -/
theorem State.engineUpdate_refused_iff {s : State} (hrun : s.status = .running) :
    s.engineUpdate.status = .refused ↔ s.n < s.engineUpdate.wi ∨ s.noThreadLeft = true := by
  rw [State.engineUpdate_status, hrun, State.engineUpdate_wi]
  have hover : s.slide.matchOver = true ↔ s.n < s.slide.wi ∨ s.noThreadLeft = true := by
    simp only [State.matchOver, Bool.or_eq_true, decide_eq_true_eq]
    rfl
  rw [← hover]
  cases s.slide.matchOver <;> simp

/-! ### The Continue cycle -/

/-- The Continue commit and the Engine update leave every register as R149 and R190 to R197 say. -/
theorem State.Inv.continued_commit {s : State} (h : s.Inv) {r : Stage2} (hrun : s.status = .running)
    (hr : ∀ p ∈ r.pushes, p.1 < s.cfg.W) (hl2 : ∀ sl, r.latch2 = some sl → sl.lane < s.cfg.W) :
    s.Continued (s.commit r).engineUpdate (s.cyclePushes r) r.latch2 := by
  obtain ⟨hlen, hfifo, -⟩ := h.writeback_spec (h.cyclePushes_lane_lt hr)
  exact {
    queues := fun L _ => by simpa using hfifo L
    lanes := by simp [hlen, h.lanes]
    stalled := fun hnone => by simpa using State.fetch_latch_of_stall hnone
    fetched := fun L pc w hL hpc hw => by simpa using State.fetch_latch_of_read hL hpc hw
    latch2 := by simp
    bitmap := by
      refine ⟨by simp [State.activity], fun i hi => ?_⟩
      simpa using (s.commit r).activity_getElem?_iff hi
    slide := by simpa [-State.slide_wi, -State.slide_base] using (s.commit r).slide_spec h.W_pos
    ended := by
      have hend : (s.commit r).noThreadLeft = true ↔ ∀ i, i < s.cfg.W → ¬ (s.commit r).ActiveLane i :=
        State.noThreadLeft_iff hlen (fun _ => State.fetch_lane_lt h.W_pos) hl2
      simpa [hend] using State.engineUpdate_refused_iff (s := s.commit r) hrun
    running := State.engineUpdate_status_cases hrun
    cyc := by simp
    cause := by simp
    cfg := by simp
    program := by simp
    input := by simp
    edges := by simp }

/-- A cycle that raises no cause and gives no verdict continues. -/
theorem State.Inv.continued_cycle {s : State} (h : s.Inv) {r : Stage2} (hrun : s.status = .running)
    (hr : ∀ p ∈ r.pushes, p.1 < s.cfg.W) (hl2 : ∀ sl, r.latch2 = some sl → sl.lane < s.cfg.W)
    (hfetch : s.FetchOk) (hroom : s.Room (s.cyclePushes r)) (hfaults : r.faults = [])
    (hv : r.verdict = none) : s.Continued (s.cycle r) (s.cyclePushes r) r.latch2 := by
  rw [State.cycle_of_continue (h.cycleFaults_eq_nil hr hfetch hfaults hroom) hv]
  exact h.continued_commit hrun hr hl2

/-- A cycle in which stage 2 does nothing pushes only stage 3's entry (R134, R136). -/
theorem State.Inv.continued_cycle_none {s : State} (h : s.Inv) (hrun : s.status = .running)
    (hfetch : s.FetchOk) (hroom : s.Room s.stage3) : s.Continued (s.cycle .none) s.stage3 none :=
  h.continued_cycle (r := .none) hrun (by simp [Stage2.none]) (by simp [Stage2.none]) hfetch hroom rfl rfl

/-! ### The obligations -/

/-- Settles O8: the character read at the thread's index fails exactly above n. -/
theorem threadReadsAtWindowIndex : Obligations.ThreadReadsAtWindowIndex := by
  intro s hinv
  refine ⟨State.thread_of_latch1_none, fun sl hsl => ?_⟩
  obtain ⟨hlt, hcanonical⟩ := s.offset_spec hinv.W_pos sl.lane
  refine ⟨s.offset sl.lane, hlt, hcanonical, State.thread_of_suppressed hsl, fun hidx => ?_⟩
  obtain ⟨c, hc⟩ := State.exists_charRead_of_le hidx
  refine ⟨c, hc, ?_⟩
  rw [State.thread_of_latch1 hsl, State.charIndex, hc, Option.map_some]

/-- Settles O14: every push of the cycle is to a lane of the block, so only the capacity check can fail. -/
theorem writeOrderOfCycle : Obligations.WriteOrderOfCycle := by
  intro s r hinv hr
  have hps := hinv.cyclePushes_lane_lt hr
  obtain ⟨-, hfifo, -⟩ := hinv.writeback_spec hps
  exact ⟨fun L _ => hfifo L, hinv.writeback_faults_eq_nil_iff hps, hinv.writeback_faults_of_no_room hps⟩

/-- Settles O15, by what the cycle does in each of the three cases. -/
theorem outcomePriority : Obligations.OutcomePriority := fun _ _ =>
  ⟨fun _ hf => State.cycle_of_mem_cycleFaults hf, fun hnil _ hv => State.cycle_of_verdict hnil hv,
    State.cycle_of_continue⟩

/-- Settles O16: the cycle raises nothing, so it ends in the Continue commit. -/
theorem continueCommitsAndUpdatesEngine : Obligations.ContinueCommitsAndUpdatesEngine :=
  fun _ _ hinv hrun hr hl2 hfetch hroom hfaults hv =>
    hinv.continued_cycle hrun hr hl2 hfetch hroom hfaults hv

/-- Settles O17: a cause was raised in a cycle that ends in FAULT, and such a cycle takes the lowest one. -/
theorem faultChangesOnlyItsRegisters : Obligations.FaultChangesOnlyItsRegisters := by
  intro s u hc hu hfault
  have ⟨_, _, hrun⟩ := hc
  obtain rfl : s.edgePassed.cycle s.stage2Now = u := by simpa [step_of_cycling hc] using hu
  obtain ⟨g, hg⟩ := List.exists_mem_of_ne_nil _ <|
    State.cycleFaults_ne_nil_of_fault (s := s.edgePassed) hrun hfault
  exact State.cycle_of_mem_cycleFaults hg

/-- Settles O32: with no thread to execute every instruction's cycle is the idle one. -/
theorem suppressedThreadDoesNothing : Obligations.SuppressedThreadDoesNothing := by
  intro i s sl hinv hrun hsl
  constructor
  · intro hidx hfetch hroom
    refine ⟨s.cycle .none, ?_, hinv.continued_cycle_none hrun hfetch hroom⟩
    rw [exec_eq_cycle, State.stage2_of_no_thread (State.thread_of_suppressed hsl hidx)]
  · intro hidx
    refine ⟨⟨sl, s.offset sl.lane, s.charIndex sl.lane, s.cfg.sentinel⟩, ?_, rfl, rfl⟩
    rw [State.thread_of_latch1 hsl, hidx, State.charRead_n, Option.map_some]

/-- Settles O34: the invariant holds latch2 to a SPLIT with its operand and its lane in range. -/
theorem stageThreeDeliversSecondBranch : Obligations.StageThreeDeliversSecondBranch := by
  intro s hinv
  refine ⟨State.stage3_of_latch2_none, fun sl hsl => ?_⟩
  obtain ⟨⟨hlane, -⟩, -, hrange⟩ := hinv.latch2 sl hsl
  exact ⟨sl.splitTarget, Slot.splitTarget_toNat hrange, State.stage3_of_latch2 hsl, hlane⟩

end Sys2Proof.Machine
end

section
/-! SUPPORT. The eight opcodes: what each instruction's effect in stage 2 is in each of its cases, and the
cycle that such an effect leads to. -/

namespace Sys2Proof.Machine

/-! ### The thread and its successor -/

/-- The thread in stage 2 is in a lane of the block (R22). -/
theorem State.Inv.thread_lane_lt {s : State} (h : s.Inv) {t : Thread} (ht : s.thread = some t) :
    t.slot.lane < s.cfg.W := by
  obtain ⟨hslot, -⟩ := (s.thread_eq_some_iff t).mp ht
  exact (h.latch1 t.slot hslot).1

/-- Below 511, pc + 1 stays in the range of a pc (R139). -/
theorem Thread.nextPc_eq_toNat {t : Thread} (h : t.slot.pc.toNat < 511) :
    t.nextPc = (t.slot.pc + 1).toNat := by
  have hsum : (t.slot.pc + 1).toNat = t.slot.pc.toNat + (1 : Pc).toNat :=
    BitVec.toNat_add_of_lt (Nat.succ_lt_succ h)
  exact hsum.symm

/-- At pc 511, pc + 1 is out of range (R139). -/
theorem Thread.le_nextPc {t : Thread} (h : t.slot.pc.toNat = 511) : 512 ≤ t.nextPc := by
  simp [Thread.nextPc, h]

/-- A result of stage 2 that requests one successor and leaves `l2` to latch2 (R138, R141). -/
def Stage2.successor (L : Nat) (p : Pc) (l2 : Option Slot) : Stage2 :=
  { Stage2.none with pushes := [(L, p)], latch2 := l2, valid := true }

/-- A pc value in range whose lane does not overrun the window is pushed (R138). -/
theorem State.succ_eq_successor {s : State} {t : Thread} {n d : Nat} {p : Pc} (hp : n = p.toNat)
    (ho : s.overruns t d = false) (l2 : Option Slot) :
    s.succ t n d { Stage2.none with latch2 := l2 } =
      .successor ((t.slot.lane + d) % s.cfg.W) p l2 := by
  have hlt : ¬ 512 ≤ p.toNat := Nat.not_le.mpr p.isLt
  subst hp
  simp [State.succ, hlt, ho, Stage2.successor, Stage2.none]

/-- A successor in the thread's own lane never overruns the window (R140). -/
theorem State.succ_eq_successor_of_same_lane {s : State} {t : Thread} {n : Nat} {p : Pc}
    (hp : n = p.toNat) (hlane : t.slot.lane < s.cfg.W) (l2 : Option Slot) :
    s.succ t n 0 { Stage2.none with latch2 := l2 } = .successor t.slot.lane p l2 := by
  rw [State.succ_eq_successor hp (by simp [State.overruns]), Nat.add_zero, Nat.mod_eq_of_lt hlane]

/-- A lane-advancing successor under ALIAS, or from an offset below W-1, does not overrun (R140). -/
theorem State.overruns_eq_false {s : State} {t : Thread}
    (h : s.cfg.overrunPolicy = .aliasBase ∨ t.off + 1 < s.cfg.W) (d : Nat) : s.overruns t d = false := by
  rw [← Bool.not_eq_true, s.overruns_iff]
  rintro ⟨-, hoff, hpolicy⟩
  rcases h with halias | hlt
  · simp [halias] at hpolicy
  · omega

/-- Under OVERRUN_POLICY = FAULT a lane-advancing successor from offset W-1 overruns (R140). -/
theorem State.succ_of_overrun {s : State} {t : Thread} {n : Nat} (hn : n < 512)
    (hpolicy : s.cfg.overrunPolicy = .faultOnOverrun) (hoff : t.off + 1 = s.cfg.W) (r : Stage2) :
    s.succ t n 1 r = r.raise .windowOverrun := by
  have ho : s.overruns t 1 = true := (s.overruns_iff t 1).mpr ⟨rfl, hoff, hpolicy⟩
  simp [State.succ, Nat.not_le.mpr hn, ho]

theorem State.pcOutOfRange_mem_faults_succ (s : State) (t : Thread) {n : Nat} (hn : 512 ≤ n) (d : Nat)
    (r : Stage2) : .pcOutOfRange ∈ (s.succ t n d r).faults := by
  simp [State.succ, hn, Stage2.raise]

/-- A successor request drops no cause raised before it. -/
theorem State.mem_faults_succ_of_mem (s : State) (t : Thread) (n d : Nat) {r : Stage2} {f : Fault}
    (hf : f ∈ r.faults) : f ∈ (s.succ t n d r).faults := by
  obtain ⟨-, hs⟩ | ⟨-, -, hs⟩ | ⟨-, -, hs⟩ := s.succ_cases t n d r <;> simp [hs, Stage2.raise, hf]

/-! ### The causes of a cycle whose stage 1 raises nothing -/

/-- A cycle takes a fault than which it raises no lower one (R145, R220). -/
theorem State.cycle_of_lowest {s : State} {r : Stage2} {f : Fault} (hf : f ∈ s.cycleFaults r)
    (hle : ∀ g ∈ s.cycleFaults r, f.code ≤ g.code) : s.cycle r = s.takeFault f := by
  obtain ⟨g, hg, hmin, hcyc⟩ := State.cycle_of_mem_cycleFaults hf
  rw [hcyc, Fault.code_inj (BitVec.le_antisymm (hmin f hf) (hle g hg))]

/-- Where stage 1 raises nothing and every queue has room, the causes of a cycle are stage 2's. -/
theorem State.Inv.cycleFaults_eq_faults {s : State} (h : s.Inv) {r : Stage2}
    (hr : ∀ p ∈ r.pushes, p.1 < s.cfg.W) (hfetch : s.FetchOk) (hroom : s.Room (s.cyclePushes r)) :
    s.cycleFaults r = r.faults := by
  have hwb := (h.writeback_faults_eq_nil_iff (h.cyclePushes_lane_lt hr)).mpr hroom
  simp [State.cycleFaults, hfetch.fetch_faults, hwb]

/-- Where stage 1 raises nothing, only an overflow comes on top of stage 2's causes. -/
theorem State.Inv.mem_faults_or_overflow {s : State} (h : s.Inv) {r : Stage2}
    (hr : ∀ p ∈ r.pushes, p.1 < s.cfg.W) (hfetch : s.FetchOk) {g : Fault} (hg : g ∈ s.cycleFaults r) :
    g ∈ r.faults ∨ g = .bufferOverflow := by
  obtain ⟨-, -, hwb⟩ := h.writeback_spec (h.cyclePushes_lane_lt hr)
  simp only [State.cycleFaults, hfetch.fetch_faults, List.nil_append, List.mem_append, hwb] at hg
  refine hg.imp_right fun hg => ?_
  split at hg
  · exact List.mem_singleton.mp hg
  · cases hg

/-! ### The cycle in which stage 2 has a given effect -/

theorem exec_of_thread {s : State} {t : Thread} (ht : s.thread = some t) (i : Instr) :
    exec i s = .next (s.cycle (effectOf i s t)) := by
  rw [exec_eq_cycle, State.stage2_of_thread ht]

section
variable {i : Instr} {s : State} {t : Thread} (hinv : s.Inv) (ht : s.thread = some t) (hfetch : s.FetchOk)
include hinv ht hfetch

/-- A thread that dies leaves a Continue cycle that pushes only stage 3's entry (R160). -/
theorem exec_continues_of_death (hrun : s.status = .running) (heff : effectOf i s t = .none)
    (hroom : s.Room s.stage3) : ∃ u, exec i s = .next u ∧ s.Continued u s.stage3 none := by
  refine ⟨_, exec_of_thread ht i, ?_⟩
  rw [heff]
  exact hinv.continued_cycle_none hrun hfetch hroom

/-- A successor in a lane of the block is pushed before stage 3's entry in a Continue cycle (R144). -/
theorem exec_continues_of_successor (hrun : s.status = .running) {L : Nat} {p : Pc} {l2 : Option Slot}
    (heff : effectOf i s t = .successor L p l2) (hL : L < s.cfg.W)
    (hl2 : ∀ sl, l2 = some sl → sl.lane < s.cfg.W) (hroom : s.Room ((L, p) :: s.stage3)) :
    ∃ u, exec i s = .next u ∧ s.Continued u ((L, p) :: s.stage3) l2 := by
  refine ⟨_, exec_of_thread ht i, ?_⟩
  rw [heff]
  exact hinv.continued_cycle (r := .successor L p l2) hrun (by simpa [Stage2.successor] using hL) hl2
    hfetch hroom rfl rfl

/-- A verdict stands when the cycle raises nothing (R145, R148). -/
theorem exec_of_verdict {v : Verdict} (heff : effectOf i s t = Stage2.none.give v)
    (hroom : s.Room s.stage3) : exec i s = .next (s.takeVerdict v) := by
  have hnil : s.cycleFaults (Stage2.none.give v) = [] :=
    hinv.cycleFaults_eq_nil (by simp [Stage2.give, Stage2.none]) hfetch rfl hroom
  rw [exec_of_thread ht, heff, State.cycle_of_verdict hnil rfl]

/-- Of the causes that can come together with it, PcOutOfRange has the lowest code (R211, R220). -/
theorem exec_of_pcOutOfRange (hmem : .pcOutOfRange ∈ (effectOf i s t).faults) :
    exec i s = .next (s.takeFault .pcOutOfRange) := by
  obtain ⟨hfaults, hpushes⟩ := effectOf_faults_pushes i hinv.W_pos t
  rw [exec_of_thread ht, State.cycle_of_lowest]
  · exact List.mem_append_left _ (List.mem_append_right _ hmem)
  · intro g hg
    rcases hinv.mem_faults_or_overflow hpushes hfetch hg with hg | rfl
    · rcases hfaults g hg with rfl | rfl <;> decide
    · decide

/-- WindowOverrun, the cause with the highest code, is taken when no other is raised (R218). -/
theorem exec_of_windowOverrun (heff : effectOf i s t = Stage2.none.raise .windowOverrun)
    (hroom : s.Room s.stage3) : exec i s = .next (s.takeFault .windowOverrun) := by
  have hfaults : s.cycleFaults (Stage2.none.raise .windowOverrun) = [.windowOverrun] :=
    hinv.cycleFaults_eq_faults (by simp [Stage2.raise, Stage2.none]) hfetch hroom
  rw [exec_of_thread ht, heff, State.cycle_of_lowest] <;> simp [hfaults]

end

/-! ### The effect of each instruction -/

theorem charEquals_iff (c : Chr) (k : Operand) : charEquals c k = true ↔ c.zeroExtend 13 = k := beq_iff_eq

theorem effectOf_accept_of_sentinel {s : State} {t : Thread} (h : t.c = s.cfg.sentinel) (k : Operand) :
    effectOf (.accept k) s t = Stage2.none.give .accepted := by
  simp [effectOf, acceptEffect, State.isSentinel, h]

theorem effectOf_accept_of_ne_sentinel {s : State} {t : Thread} (h : t.c ≠ s.cfg.sentinel) (k : Operand) :
    effectOf (.accept k) s t = .none := by
  simp [effectOf, acceptEffect, State.isSentinel, h]

theorem effectOf_split_of_lt {k : Operand} (h : k.toNat < 512) (s : State) (t : Thread) :
    effectOf (.split k) s t = s.succ t t.nextPc 0 { Stage2.none with latch2 := some t.slot } := by
  simp [effectOf, splitEffect, Nat.not_le.mpr h]

/-- SPLIT checks its operand at once, and pc + 1 as every successor (R162). -/
theorem pcOutOfRange_mem_effectOf_split {k : Operand} {t : Thread}
    (h : 512 ≤ k.toNat ∨ t.slot.pc.toNat = 511) (s : State) :
    .pcOutOfRange ∈ (effectOf (.split k) s t).faults := by
  rcases h with hk | hpc
  · exact State.mem_faults_succ_of_mem s t _ _ (by simp [hk, Stage2.raise])
  · exact State.pcOutOfRange_mem_faults_succ s t (Thread.le_nextPc hpc) _ _

/-- On an equal character MATCH does what MATCH_ANY does (R163, R166). -/
theorem effectOf_matchChar_of_eq {k : Operand} {t : Thread} (h : t.c.zeroExtend 13 = k) (s : State) :
    effectOf (.matchChar k) s t = effectOf (.matchAny k) s t := by
  simp only [effectOf, matchEffect, matchAnyEffect, (charEquals_iff t.c k).mpr h, if_true]

theorem effectOf_matchChar_of_ne {k : Operand} {t : Thread} (h : t.c.zeroExtend 13 ≠ k) (s : State) :
    effectOf (.matchChar k) s t = .none := by
  simp only [effectOf, matchEffect, charEquals_iff, h, if_false]

theorem effectOf_notMatch_of_eq {k : Operand} {t : Thread} (h : t.c.zeroExtend 13 = k) (s : State) :
    effectOf (.notMatch k) s t = .none := by
  simp only [effectOf, notMatchEffect, charEquals_iff, h, if_true]

theorem effectOf_notMatch_of_ne {k : Operand} {t : Thread} (h : t.c.zeroExtend 13 ≠ k) (s : State) :
    effectOf (.notMatch k) s t = s.succ t t.nextPc 0 .none := by
  simp only [effectOf, notMatchEffect, charEquals_iff, h, if_false]

/-! ### The obligations -/

/-- Settles O24: a verdict at the sentinel, else the effect of a thread that dies. -/
theorem acceptResult : Obligations.AcceptResult := by
  intro k s t hinv hrun ht hfetch hroom
  constructor
  · intro hc
    exact exec_of_verdict hinv ht hfetch (effectOf_accept_of_sentinel hc k) hroom
  · intro hc
    exact exec_continues_of_death hinv ht hfetch hrun (effectOf_accept_of_ne_sentinel hc k) hroom

/-- Settles O25: the first branch is a successor in the same lane, and the range checks of the two branches
raise the one cause. -/
theorem splitResult : Obligations.SplitResult := by
  intro k s t hinv hrun ht hfetch
  have hlane := hinv.thread_lane_lt ht
  constructor
  · intro hk hpc hroom
    refine exec_continues_of_successor hinv ht hfetch hrun ?_ hlane ?_ hroom
    · rw [effectOf_split_of_lt hk]
      exact State.succ_eq_successor_of_same_lane (Thread.nextPc_eq_toNat hpc) hlane _
    · rintro _ ⟨⟩
      exact hlane
  · intro h
    exact exec_of_pcOutOfRange hinv ht hfetch (pcOutOfRange_mem_effectOf_split h s)

/-- Settles O27: the operand is the successor's pc, in the same lane, if a pc can hold it. -/
theorem jmpResult : Obligations.JmpResult := by
  intro k s t hinv hrun ht hfetch
  have hlane := hinv.thread_lane_lt ht
  constructor
  · intro p hp hroom
    exact exec_continues_of_successor hinv ht hfetch hrun
      (State.succ_eq_successor_of_same_lane hp.symm hlane none) hlane (by simp) hroom
  · intro hk
    exact exec_of_pcOutOfRange hinv ht hfetch (State.pcOutOfRange_mem_faults_succ s t hk _ _)

/-- Settles O28: the effect is a verdict, which no other thread can change. -/
theorem endWithoutAcceptingResult : Obligations.EndWithoutAcceptingResult :=
  fun _ _ _ hinv ht hfetch hroom => exec_of_verdict hinv ht hfetch (v := .refused) rfl hroom

/-- Settles O29: the successor request in the next lane, in each of its three cases. -/
theorem matchAnyResult : Obligations.MatchAnyResult := by
  intro k s t hinv hrun ht hfetch
  refine ⟨fun hpc hwindow hroom => ?_, fun hpc => ?_, fun hpc hpolicy hoff hroom => ?_⟩
  · exact exec_continues_of_successor hinv ht hfetch hrun
      (State.succ_eq_successor (Thread.nextPc_eq_toNat hpc) (State.overruns_eq_false hwindow 1) none)
      (Nat.mod_lt _ hinv.W_pos) (by simp) hroom
  · exact exec_of_pcOutOfRange hinv ht hfetch
      (State.pcOutOfRange_mem_faults_succ s t (Thread.le_nextPc hpc) _ _)
  · have hnext : t.nextPc < 512 := by simp only [Thread.nextPc]; omega
    exact exec_of_windowOverrun hinv ht hfetch (State.succ_of_overrun hnext hpolicy hoff _) hroom

/-- Settles O26: on an equal character the cycle is MATCH_ANY's, and on another the thread dies. -/
theorem matchResult : Obligations.MatchResult := by
  intro k s t hinv hrun ht hfetch
  obtain ⟨hpush, hrange, hoverrun⟩ := matchAnyResult k s t hinv hrun ht hfetch
  have hany : t.c.zeroExtend 13 = k → exec (.matchChar k) s = exec (.matchAny k) s := fun hc => by
    rw [exec_of_thread ht, exec_of_thread ht, effectOf_matchChar_of_eq hc]
  refine ⟨fun hc => ?_, fun hc => ?_, fun hc => ?_, fun hc hroom => ?_⟩
  · rwa [hany hc]
  · rwa [hany hc]
  · rwa [hany hc]
  · exact exec_continues_of_death hinv ht hfetch hrun (effectOf_matchChar_of_ne hc s) hroom

/-- Settles O30: the effect is a verdict, whatever character the thread reads. -/
theorem acceptPartialResult : Obligations.AcceptPartialResult :=
  fun _ _ _ hinv ht hfetch hroom => exec_of_verdict hinv ht hfetch (v := .accepted) rfl hroom

/-- Settles O31: on a different character a successor in the same lane, else the thread dies. -/
theorem notMatchResult : Obligations.NotMatchResult := by
  intro k s t hinv hrun ht hfetch
  have hlane := hinv.thread_lane_lt ht
  refine ⟨fun hc hpc hroom => ?_, fun hc hpc => ?_, fun hc hroom => ?_⟩
  · refine exec_continues_of_successor hinv ht hfetch hrun ?_ hlane (by simp) hroom
    rw [effectOf_notMatch_of_ne hc]
    exact State.succ_eq_successor_of_same_lane (Thread.nextPc_eq_toNat hpc) hlane none
  · refine exec_of_pcOutOfRange hinv ht hfetch ?_
    rw [effectOf_notMatch_of_ne hc]
    exact State.pcOutOfRange_mem_faults_succ s t (Thread.le_nextPc hpc) _ _
  · exact exec_continues_of_death hinv ht hfetch hrun (effectOf_notMatch_of_eq hc s) hroom

end Sys2Proof.Machine
end

section
/-! SUPPORT. The engine block's outputs, and what a halted block keeps (43_engine.md R200, R202). -/

namespace Sys2Proof.Machine

/-- The host's schedule drives no output port (R200). -/
@[simp] theorem State.edgePassed_outputs (s : State) : s.edgePassed.outputs = s.outputs := rfl

/-- Settles O41: without a start an edge at a halted block only moves the host's schedule, which no output
reads. -/
theorem haltedBlockHolds : Obligations.HaltedBlockHolds :=
  fun s hlegal hstart hhalted => ⟨step_of_halted hlegal hstart hhalted, s.edgePassed_outputs⟩

end Sys2Proof.Machine
end

section
/-! SUPPORT. The faults a cycle ends in and the way out of a halted block: FetchBeyondProgram, PcOutOfRange
and WindowOverrun (60_exceptions.md R215, R216, R218), and the start edge (R223). -/

namespace Sys2Proof.Machine

/-! ### The causes a cycle can raise, by stage -/

/-- Stage 1 at a head pc outside the program raises its one cause (R132, R215). -/
theorem State.fetch_faults_of_length_le {s : State} {L : Nat} {pc : Pc} (hL : s.firstNonEmpty = some L)
    (hpc : headOf s.buf L = some pc) (hlen : s.program.length ≤ pc.toNat) :
    s.fetch.2 = [.fetchBeyondProgram] := by
  have hread : s.progRead pc = none := List.getElem?_eq_none hlen
  simp only [State.fetch, hL, hpc, hread]

/-- A cause of a cycle is stage 1's, one of stage 2's, or the writeback's (R144, R210). -/
theorem State.Inv.mem_cycleFaults_cases {s : State} (h : s.Inv) {r : Stage2}
    (hr : ∀ p ∈ r.pushes, p.1 < s.cfg.W) {g : Fault} (hg : g ∈ s.cycleFaults r) :
    g = .fetchBeyondProgram ∨ g ∈ r.faults ∨ g = .bufferOverflow := by
  obtain ⟨-, -, hwb⟩ := h.writeback_spec (h.cyclePushes_lane_lt hr)
  simp only [State.cycleFaults, List.mem_append, hwb] at hg
  rcases hg with (hfetch | hstage2) | hoverflow
  · exact .inl (State.eq_fetchBeyondProgram_of_mem_fetch hfetch)
  · exact .inr (.inl hstage2)
  · split at hoverflow
    · exact .inr (.inr (List.mem_singleton.mp hoverflow))
    · cases hoverflow

/-- From a well-formed state no cause of a cycle has a code below FetchBeyondProgram's (R212 to R214). -/
theorem State.Inv.fetchBeyondProgram_code_le {s : State} (h : s.Inv) {g : Fault}
    (hg : g ∈ s.cycleFaults s.stage2Now) : Fault.fetchBeyondProgram.code ≤ g.code := by
  obtain ⟨hfaults, hpushes⟩ := State.stage2Now_faults_pushes h.W_pos
  rcases h.mem_cycleFaults_cases hpushes hg with rfl | hstage2 | rfl
  · decide
  · rcases hfaults g hstage2 with rfl | rfl <;> decide
  · decide

/-! ### The successor pc that a pc cannot hold -/

/-- A JMP target and a SPLIT operand are range-checked in stage 2 (R162, R164). -/
theorem pcOutOfRange_mem_effectOf_of_operand {i : Instr} {k : Operand} (hk : 512 ≤ k.toNat)
    (hi : i = .jmp k ∨ i = .split k) (s : State) (t : Thread) :
    .pcOutOfRange ∈ (effectOf i s t).faults := by
  rcases hi with rfl | rfl
  · exact State.pcOutOfRange_mem_faults_succ s t hk _ _
  · exact pcOutOfRange_mem_effectOf_split (.inl hk) s

/-- At pc 511 every instruction that goes on at pc + 1 raises the cause (R139). -/
theorem pcOutOfRange_mem_effectOf_of_nextPc {i : Instr} {t : Thread} {k : Operand}
    (hpc : t.slot.pc.toNat = 511)
    (hi : i = .split k ∨ i = .matchAny k ∨ (i = .matchChar k ∧ t.c.zeroExtend 13 = k) ∨
      (i = .notMatch k ∧ t.c.zeroExtend 13 ≠ k)) (s : State) :
    .pcOutOfRange ∈ (effectOf i s t).faults := by
  have hsucc : ∀ d, .pcOutOfRange ∈ (s.succ t t.nextPc d .none).faults := fun d =>
    State.pcOutOfRange_mem_faults_succ s t (Thread.le_nextPc hpc) d .none
  rcases hi with rfl | rfl | ⟨rfl, hc⟩ | ⟨rfl, hc⟩
  · exact pcOutOfRange_mem_effectOf_split (.inr hpc) s
  · exact hsucc 1
  · rw [effectOf_matchChar_of_eq hc]
    exact hsucc 1
  · rw [effectOf_notMatch_of_ne hc]
    exact hsucc 0

/-! ### The lane-advancing successor at the last window offset -/

/-- MATCH_ANY, and MATCH on an equal character, request (pc+1, lane+1) (R163, R166). -/
theorem effectOf_eq_succ_of_advance {i : Instr} {t : Thread} {k : Operand}
    (hi : i = .matchAny k ∨ (i = .matchChar k ∧ t.c.zeroExtend 13 = k)) (s : State) :
    effectOf i s t = s.succ t t.nextPc 1 .none := by
  rcases hi with rfl | ⟨rfl, hc⟩
  · rfl
  · exact effectOf_matchChar_of_eq hc s

/-- Only a thread at offset W-1 under OVERRUN_POLICY = FAULT raises WindowOverrun (R140). -/
theorem offset_policy_of_windowOverrun_mem_effectOf {i : Instr} {s : State} {t : Thread}
    (h : .windowOverrun ∈ (effectOf i s t).faults) :
    t.off + 1 = s.cfg.W ∧ s.cfg.overrunPolicy = .faultOnOverrun := by
  obtain ⟨-, hf⟩ | ⟨p, d, r, heff, -, hf⟩ := effectOf_cases i s t
  · simp [hf] at h
  · have hbefore : Fault.windowOverrun ∉ r.faults := fun hmem => by cases hf _ hmem
    rw [heff] at h
    obtain ⟨-, hs⟩ | ⟨-, hoverruns, -⟩ | ⟨-, -, hs⟩ := s.succ_cases t p d r
    · simp [hs, Stage2.raise, hbefore] at h
    · exact ((s.overruns_iff t d).mp hoverruns).2
    · simp [hs, hbefore] at h

/-- A cycle that raises WindowOverrun has a thread at offset W-1 and OVERRUN_POLICY = FAULT (R218). -/
theorem State.Inv.overrun_of_windowOverrun_mem {s : State} (h : s.Inv)
    (hmem : .windowOverrun ∈ s.cycleFaults s.stage2Now) :
    ∃ t, s.thread = some t ∧ t.off + 1 = s.cfg.W ∧ s.cfg.overrunPolicy = .faultOnOverrun := by
  obtain ⟨-, hpushes⟩ := State.stage2Now_faults_pushes h.W_pos
  rcases h.mem_cycleFaults_cases hpushes hmem with hfetch | hstage2 | hoverflow
  · cases hfetch
  · obtain hnow | ⟨i, t, ht, hnow⟩ := s.stage2Now_cases
    · simp [hnow, Stage2.none] at hstage2
    · rw [hnow] at hstage2
      exact ⟨t, ht, offset_policy_of_windowOverrun_mem_effectOf hstage2⟩
  · cases hoverflow

/-! ### Lanes by their window offset -/

theorem State.offset_of_base_le {s : State} {L : Nat} (hL : L < s.cfg.W) (hle : s.base ≤ L) :
    s.offset L = L - s.base := by
  have hmod : ((L : Int) - s.base) % s.cfg.W = L - s.base := Int.emod_eq_of_lt (by omega) (by omega)
  unfold State.offset wrap
  omega

/-- A lane below the base is reached by wrapping around (R37). -/
theorem State.offset_of_lt_base {s : State} {L : Nat} (hbase : s.base < s.cfg.W) (hlt : L < s.base) :
    s.offset L = L + s.cfg.W - s.base := by
  have hmod : ((L : Int) - s.base) % s.cfg.W = L - s.base + s.cfg.W := by
    rw [← Int.add_emod_right]
    exact Int.emod_eq_of_lt (by omega) (by omega)
  unfold State.offset wrap
  omega

/-- The lane after the one at offset W-1, and after no other, is the base lane (R140). -/
theorem State.offset_add_one_eq_W_iff {s : State} {L : Nat} (hbase : s.base < s.cfg.W)
    (hL : L < s.cfg.W) : s.offset L + 1 = s.cfg.W ↔ (L + 1) % s.cfg.W = s.base := by
  rcases Nat.lt_or_ge L s.base with hlt | hle
  · rw [State.offset_of_lt_base hbase hlt, Nat.mod_eq_of_lt (Nat.lt_of_le_of_lt hlt hbase)]
    omega
  · rw [State.offset_of_base_le hL hle]
    obtain hlast | hnext : L + 1 = s.cfg.W ∨ L + 1 < s.cfg.W := by omega
    · rw [hlast, Nat.mod_self]
      omega
    · rw [Nat.mod_eq_of_lt hnext]
      omega

theorem State.Inv.next_lane_of_last_offset {s : State} (h : s.Inv) {t : Thread}
    (ht : s.thread = some t) (hoff : t.off + 1 = s.cfg.W) : (t.slot.lane + 1) % s.cfg.W = s.base := by
  obtain ⟨-, hoffset, -, -⟩ := (s.thread_eq_some_iff t).mp ht
  rw [hoffset] at hoff
  exact (State.offset_add_one_eq_W_iff h.base (h.thread_lane_lt ht)).mp hoff

/-! ### The obligations -/

/-- Settles O19: stage 1 raises the cause, and no cause of the cycle has a lower code. -/
theorem fetchBeyondProgramFaults : Obligations.FetchBeyondProgramFaults := by
  intro s L pc hinv hc hL hpc hlen
  have hmem : .fetchBeyondProgram ∈ s.cycleFaults s.stage2Now := by
    simp [State.cycleFaults, State.fetch_faults_of_length_le hL hpc hlen]
  rw [step_of_cycling hc, State.cycle_of_lowest (s := s.edgePassed) hmem]
  · rfl
  · exact fun g hg => hinv.fetchBeyondProgram_code_le hg

/-- Settles O20: stage 2 raises the cause in each of the cases, and without a thread it raises none. -/
theorem successorPcOutOfRangeFaults : Obligations.SuccessorPcOutOfRangeFaults := by
  constructor
  · intro s t i hinv ht hfetch hcase
    refine exec_of_pcOutOfRange hinv ht hfetch ?_
    obtain ⟨k, hk, hi⟩ | ⟨hpc, k, hi⟩ := hcase
    · exact pcOutOfRange_mem_effectOf_of_operand hk hi s t
    · exact pcOutOfRange_mem_effectOf_of_nextPc hpc hi s
  · intro s i hnone
    rw [State.stage2_of_no_thread hnone]
    rfl

/-- Settles O22: both instructions request one lane-advancing successor, which at offset W-1 the policy
either turns into the fault or lets wrap to the base lane. -/
theorem windowOverrunFaults : Obligations.WindowOverrunFaults := by
  refine ⟨?_, ?_, ?_⟩
  · rintro s t i hinv ht hfetch hroom hpolicy hoff hpc ⟨k, hi⟩
    have hnext : t.nextPc < 512 := Nat.succ_lt_succ hpc
    refine exec_of_windowOverrun hinv ht hfetch ?_ hroom
    rw [effectOf_eq_succ_of_advance hi]
    exact State.succ_of_overrun hnext hpolicy hoff _
  · intro s u hinv hc halias hu hseven
    obtain ⟨t, -, -, hpolicy⟩ := hinv.overrun_of_windowOverrun_mem
      (hinv.mem_cycleFaults_of_cause hc hu (g := .windowOverrun) hseven)
    simp [halias] at hpolicy
  · rintro s t i hinv ht halias hoff hpc ⟨k, hi⟩
    have hsucc : s.succ t t.nextPc 1 .none =
        .successor ((t.slot.lane + 1) % s.cfg.W) (t.slot.pc + 1) none :=
      State.succ_eq_successor (Thread.nextPc_eq_toNat hpc) (State.overruns_eq_false (.inl halias) 1) none
    rw [State.stage2_of_thread ht, effectOf_eq_succ_of_advance hi, hsucc,
      hinv.next_lane_of_last_offset ht hoff]
    rfl

/-- Settles O42: of what an edge can do, holding keeps the status and a cycle needs a running block. -/
theorem onlyStartLeavesHalt : Obligations.OnlyStartLeavesHalt := by
  intro s u hhalted hu hchanged
  obtain ⟨-, ⟨inp, hp, -, rfl⟩ | ⟨-, -, rfl⟩ | ⟨⟨-, -, hrun⟩, -⟩⟩ := step_cases hu
  · exact ⟨inp, hp, s.edgePassed.startMatch_eq_initial inp⟩
  · exact absurd rfl hchanged
  · exact absurd hrun hhalted

end Sys2Proof.Machine
end

section
/-! SUPPORT. The start edge: the lane queues it leaves (40_buffers.md, flush), and what the reset takes from the
state before it (70_reset_and_hazards.md R240, R241, R243). -/

namespace Sys2Proof.Machine

/-! ### The flushed queues with lane 0 seeded -/

@[simp] theorem flush_length (W : Nat) : (flush W).length = W := List.length_replicate

@[simp] theorem fifo_flush (W L : Nat) : fifo (flush W) L = [] := fifo_replicate_nil W L

theorem State.startMatch_buf_length (s : State) (inp : List Chr) :
    (s.startMatch inp).buf.length = s.cfg.W := by
  simp

/-- Lane 0 exists as W ≥ 1, and the reset seeds it with the continuation at pc 0. -/
theorem State.fifo_startMatch_zero {s : State} (hW : 0 < s.cfg.W) (inp : List Chr) :
    fifo (s.startMatch inp).buf 0 = [0] :=
  fifo_set_self _ _ (by simpa using hW)

theorem State.fifo_startMatch_of_ne_zero (s : State) (inp : List Chr) {L : Nat} (hL : L ≠ 0) :
    fifo (s.startMatch inp).buf L = [] :=
  (fifo_set_ne _ _ hL).trans (fifo_flush s.cfg.W L)

theorem State.eq_false_of_mem_startMatch_bitmap {s : State} {inp : List Chr} {b : Bool}
    (hb : b ∈ (s.startMatch inp).bitmap) : b = false :=
  List.eq_of_mem_replicate hb

/-! ### What is admitted has a lane -/

theorem Config.W_pos_of_legal {cfg : Config} (h : Config.legal cfg = true) : 0 < cfg.W := by
  simp only [Config.legal, Bool.and_eq_true, decide_eq_true_eq] at h
  obtain ⟨⟨⟨hW, -⟩, -⟩, -⟩ := h
  exact hW

/-! ### The obligations -/

/-- Settles O43: an admitted start edge steps to the reset machine. Its queues are flushed with lane 0 seeded,
its bitmap is all zero, and every other register is the reset's by definition. -/
theorem startEdgeResets : Obligations.StartEdgeResets := by
  intro s inp hlegal hstart hfits
  have hW : 0 < s.cfg.W := Config.W_pos_of_legal (State.config_legal_of_legal hlegal)
  have hbitmap : (s.edgePassed.startMatch inp).bitmap.length = s.cfg.W := by simp
  exact ⟨s.edgePassed.startMatch inp, step_of_start hlegal hstart hfits,
    State.fifo_startMatch_zero hW inp, State.startMatch_buf_length _ inp,
    fun _ hL => State.fifo_startMatch_of_ne_zero _ inp hL, rfl, rfl, rfl, rfl, hbitmap,
    fun _ hb => State.eq_false_of_mem_startMatch_bitmap hb, rfl, rfl, rfl, rfl, rfl, rfl, rfl, rfl⟩

/-- Settles O44: an admitted start edge steps to the reset machine, which takes only the parameters, the
program and the host's schedule from the state before it. -/
theorem startForgetsPreviousMatch : Obligations.StartForgetsPreviousMatch := by
  intro s inp hlegal hstart hfits
  rw [step_of_start hlegal hstart hfits, State.startMatch_eq_initial]
  rfl

end Sys2Proof.Machine
end

section
/-! SUPPORT. The two round trips between instructions and words, and the small reads: the canonical remainder,
`CharRead`, and the agreement of the two scans. -/

namespace Sys2Proof

/-! ### Words and instructions -/

/-- No bit of a word is outside its two fields (R81). -/
theorem word_eq_of_fields {w w' : Word} (hop : opcodeField w = opcodeField w')
    (hk : operandField w = operandField w') : w = w' := by
  have happend : ∀ v : Word, v = (opcodeField v ++ operandField v : BitVec (3 + 13)) := fun v => by
    apply BitVec.eq_of_getLsbD_eq
    intro i hi
    rw [BitVec.getLsbD_append]
    split
    · simp [operandField, *]
    · simp [opcodeField, show i - 13 < 3 by omega, show 13 + (i - 13) = i by omega]
  rw [happend w, happend w', hop, hk]

/-- Settles O1: the encoding carries the opcode and the operand in the fields from which a word decodes. -/
theorem decodeOfEncode : Obligations.DecodeOfEncode := by
  intro i
  obtain ⟨hop, hk⟩ := opcodeField_operandField_encode i
  exact (decode_eq_ok_iff (encode i) i).mpr ⟨hop.symm, hk.symm⟩

/-- Settles O3: the encoding has the two fields of the word, which are all its bits. -/
theorem encodeOfDecode : Obligations.EncodeOfDecode := by
  intro w i h
  obtain ⟨hop, hk⟩ := (decode_eq_ok_iff w i).mp h
  obtain ⟨hop', hk'⟩ := opcodeField_operandField_encode i
  exact word_eq_of_fields (hop'.trans hop) (hk'.trans hk)

/-- Settles O4: each word is the encoding of its instruction. -/
theorem exampleWordsDecode : Obligations.ExampleWordsDecode :=
  ⟨decodeOfEncode (.matchChar 0x61), decodeOfEncode (.accept 0), decodeOfEncode (.split 3),
    decodeOfEncode (.jmp 4), decodeOfEncode (.acceptPartial 0), decodeOfEncode (.endWithoutAccepting 0x1FFF),
    decodeOfEncode (.matchAny 0), decodeOfEncode (.notMatch 0x78)⟩

namespace Machine

/-! ### Arithmetic, the input and the scans -/

/-- Settles O6: the remainder of the integer division, which is unique in its range. -/
theorem modIsCanonicalRemainder : Obligations.ModIsCanonicalRemainder := by
  intro k n hn
  refine ⟨wrap_lt k hn, ⟨k / n, ?_⟩, fun r q hr hk => ?_⟩
  · rw [wrap_cast k hn, Int.ediv_mul_add_emod]
  · have hrem : k % n = r := by
      rw [hk, Int.add_comm, Int.add_mul_emod_self_right]
      exact Int.emod_eq_of_lt (by omega) (by omega)
    rw [wrap, hrem, Int.toNat_natCast]

theorem State.charRead_of_getElem? {s : State} {idx : Nat} {c : Chr} (h : s.input[idx]? = some c) :
    s.charRead idx = some c := by
  obtain ⟨hlt, -⟩ := List.getElem?_eq_some_iff.mp h
  simp [State.charRead, State.n, hlt, ← h]

/-- Settles O7. -/
theorem charReadEndsAtSentinel : Obligations.CharReadEndsAtSentinel := fun s idx =>
  ⟨fun _ => State.charRead_of_getElem?, s.charRead_n, (s.charRead_none_iff idx).symm⟩

/-- Settles O13: both scans look for a pending continuation in the same lanes. -/
theorem hasReadyMatchesFirstNonEmpty : Obligations.HasReadyMatchesFirstNonEmpty := by
  intro s
  rw [← Option.isSome_iff_ne_none, State.firstNonEmpty, List.find?_isSome, State.hasReady, List.any_eq_true]

end Machine
end Sys2Proof
end

section
/-! SUPPORT. What every cycle and every edge do, whatever the state: the registers that no outcome of a cycle
writes, the counter, the three answers of a step, and the cycle that leaves the block RUNNING. -/

namespace Sys2Proof.Machine

/-! ### Stage 2 reads neither the schedule, nor the bitmap, nor the counter -/

/-- An instruction's effect reads the parameters and its thread, and nothing else of the state (R138, R160). -/
theorem effectOf_congr {s s' : State} (h : s.cfg = s'.cfg) (i : Instr) : effectOf i s = effectOf i s' := by
  obtain ⟨cfg⟩ := s
  obtain ⟨cfg'⟩ := s'
  obtain rfl : cfg = cfg' := h
  cases i with
  | accept k | split k | matchChar k | jmp k | endWithoutAccepting k | matchAny k | acceptPartial k
  | notMatch k => rfl

theorem State.stage2Now_congr {s s' : State} (hcfg : s.cfg = s'.cfg) (hlatch : s.latch1 = s'.latch1)
    (hthread : s.thread = s'.thread) : s.stage2Now = s'.stage2Now := by
  simp only [State.stage2Now, State.stage2, hlatch, hthread, effectOf_congr hcfg]

@[simp] theorem State.edgePassed_stage2Now (s : State) : s.edgePassed.stage2Now = s.stage2Now :=
  State.stage2Now_congr rfl rfl rfl

@[simp] theorem State.hideBitmapCyc_stage2Now (s : State) : s.hideBitmapCyc.stage2Now = s.stage2Now :=
  State.stage2Now_congr rfl rfl rfl

theorem State.stage2Now_of_no_thread {s : State} (h : s.thread = none) : s.stage2Now = .none := by
  obtain hnow | ⟨i, t, ht, -⟩ := s.stage2Now_cases
  · exact hnow
  · simp [h] at ht

theorem State.stage2Now_of_latch1 {s : State} {sl : Slot} {i : Instr} (hsl : s.latch1 = some sl)
    (hi : decode sl.instr = .ok i) : s.stage2Now = s.stage2 (effectOf i s) := by
  simp only [State.stage2Now, hsl, hi]

theorem State.stage2Now_of_thread {s : State} {t : Thread} {i : Instr} (ht : s.thread = some t)
    (hi : decode t.slot.instr = .ok i) : s.stage2Now = effectOf i s t := by
  obtain ⟨hslot, -⟩ := (s.thread_eq_some_iff t).mp ht
  rw [State.stage2Now_of_latch1 hslot hi, State.stage2_of_thread ht]

/-! ### The registers after a cycle -/

/-- No outcome of a cycle writes the parameters, the program, the input or the host's schedule (R38, R74), and
every outcome counts the cycle (R197). -/
theorem State.cycle_frame (s : State) (r : Stage2) :
    (s.cycle r).cfg = s.cfg ∧ (s.cycle r).program = s.program ∧ (s.cycle r).input = s.input ∧
      (s.cycle r).edges = s.edges ∧ (s.cycle r).cyc = s.nextCyc := by
  obtain ⟨f, -, h⟩ | ⟨-, v, -, h⟩ | ⟨-, -, h⟩ := s.cycle_cases r
  · simp [h]
  · simp [h]
  · simp [h]

/-- Only a fault writes the cause register (R147, R210). -/
theorem State.cycle_cause_of_not_fault {s : State} {r : Stage2} (h : (s.cycle r).status ≠ .fault) :
    (s.cycle r).cause = s.cause := by
  obtain ⟨f, -, hcyc⟩ | ⟨-, v, -, hcyc⟩ | ⟨-, -, hcyc⟩ := s.cycle_cases r
  · simp [hcyc] at h
  · simp [hcyc]
  · simp [hcyc]

/-- The next value of the counter: one more below the largest value, and always within the width (R5, R197). -/
theorem State.nextCyc_spec (s : State) :
    (s.cfg.cycW = none → s.nextCyc = s.cyc + 1) ∧
    ∀ w, s.cfg.cycW = some w → (s.cyc + 1 < 2 ^ w → s.nextCyc = s.cyc + 1) ∧ s.nextCyc < 2 ^ w := by
  refine ⟨fun h => by simp only [State.nextCyc, h], fun w h => ?_⟩
  simp only [State.nextCyc, h]
  split
  · exact ⟨fun _ => rfl, ‹_›⟩
  · exact ⟨fun hlt => absurd hlt ‹_›, Nat.mod_lt _ (Nat.two_pow_pos w)⟩

/-! ### The answers of a step -/

theorem step_of_not_fits {s : State} {inp : List Chr} (hl : s.legal = true) (hp : s.startPin = some inp)
    (hf : ¬ Config.inputFits s.cfg inp.length = true) : step s = .refused .inputTooLong := by
  simp only [step, clockEdge, hl, hp, if_true, if_neg hf]

/-- What the host owes the block at an edge: admitted parameters and, with start, an input that fits (R6,
R245). -/
def State.EdgeAdmitted (s : State) : Prop :=
  s.legal = true ∧ ∀ inp, s.startPin = some inp → Config.inputFits s.cfg inp.length = true

theorem exists_step_of_edgeAdmitted {s : State} (h : s.EdgeAdmitted) : ∃ u, step s = .next u := by
  obtain ⟨hl, hf⟩ := h
  cases hp : s.startPin with
  | some inp => exact ⟨_, step_of_start hl hp (hf inp hp)⟩
  | none =>
    by_cases hs : s.status = .running
    · exact ⟨_, step_of_cycling ⟨hl, hp, hs⟩⟩
    · exact ⟨_, step_of_halted hl hp hs⟩

/-- An edge that is not admitted is refused, for a reason that the parameters, the program, the stored input
and the start pin decide. -/
theorem exists_refusal_of_not_edgeAdmitted {s : State} (h : ¬ s.EdgeAdmitted) :
    ∃ r, ∀ s' : State, s'.legal = s.legal → s'.startPin = s.startPin → s'.cfg = s.cfg →
      step s' = .refused r := by
  by_cases hl : s.legal = true
  · obtain ⟨inp, hp, hf⟩ : ∃ inp, s.startPin = some inp ∧ ¬ Config.inputFits s.cfg inp.length = true := by
      simpa [State.EdgeAdmitted, hl] using h
    exact ⟨.inputTooLong, fun s' hl' hp' hcfg =>
      step_of_not_fits (hl'.trans hl) (hp'.trans hp) (hcfg ▸ hf)⟩
  · exact ⟨.parameters, fun s' hl' _ _ => step_of_not_legal (hl' ▸ hl)⟩

/-- A cycle that leaves the block RUNNING raised nothing, gave no verdict and went on (R145, R149). -/
theorem eq_commit_of_running {s u : State} (hc : s.Cycling) (hu : step s = .next u)
    (hrun : u.status = .running) :
    s.cycleFaults s.stage2Now = [] ∧ u = (s.edgePassed.commit s.stage2Now).engineUpdate := by
  obtain rfl : s.edgePassed.cycle s.stage2Now = u := by simpa [step_of_cycling hc] using hu
  obtain ⟨f, -, hcyc⟩ | ⟨-, v, -, hcyc⟩ | ⟨hnil, -, hcyc⟩ := s.edgePassed.cycle_cases s.stage2Now
  · simp [hcyc] at hrun
  · rw [hcyc, State.takeVerdict_status] at hrun
    cases v <;> cases hrun
  · exact ⟨hnil, hcyc⟩

/-! ### The obligations -/

/-- Settles O23: every outcome of a cycle counts it. -/
theorem cycleCounterCounts : Obligations.CycleCounterCounts := by
  intro s u hc hu
  obtain rfl : s.edgePassed.cycle s.stage2Now = u := by simpa [step_of_cycling hc] using hu
  obtain ⟨-, -, -, -, hcyc⟩ := s.edgePassed.cycle_frame s.stage2Now
  rw [hcyc]
  exact s.nextCyc_spec

/-- Settles O54: a start writes the input, and no other edge writes any of the three. -/
theorem programAndInputAreReadOnly : Obligations.ProgramAndInputAreReadOnly := by
  intro s u hu
  obtain ⟨-, ⟨inp, hp, -, rfl⟩ | ⟨hp, -, rfl⟩ | ⟨⟨-, hp, -⟩, rfl⟩⟩ := step_cases hu
  · simp [hp]
  · simp [hp]
  · obtain ⟨hcfg, hprogram, hinput, -, -⟩ := s.edgePassed.cycle_frame s.stage2Now
    rw [hp]
    exact ⟨hprogram, hcfg, hinput⟩

/-- Settles O55: an admitted edge answers a next state, and any other is refused. -/
theorem everyAdmittedEdgeCompletes : Obligations.EveryAdmittedEdgeCompletes := by
  intro s
  by_cases h : s.EdgeAdmitted
  · obtain ⟨u, hu⟩ := exists_step_of_edgeAdmitted h
    exact ⟨fun f hf => by simp [hu] at hf, fun _ => h, fun _ => ⟨u, hu⟩⟩
  · obtain ⟨r, hr⟩ := exists_refusal_of_not_edgeAdmitted h
    have hstep : step s = .refused r := hr s rfl rfl rfl
    exact ⟨fun f hf => by simp [hstep] at hf, fun ⟨u, hu⟩ => by simp [hstep] at hu, fun h' => absurd h' h⟩

/-- Settles O39: the word in latch1 decodes, and the cycle is the one with the effect of its instruction. -/
theorem stepRunsDecodedInstruction : Obligations.StepRunsDecodedInstruction := by
  intro s sl hc hsl
  obtain ⟨i, hi⟩ := exists_decode sl.instr
  have hnow : s.stage2Now = s.edgePassed.stage2 (effectOf i s.edgePassed) :=
    s.edgePassed_stage2Now.symm.trans (State.stage2Now_of_latch1 (s := s.edgePassed) hsl hi)
  exact ⟨i, hi, by rw [step_of_cycling hc, exec_eq_cycle, hnow]⟩

/-- Settles O53: with the block still RUNNING latch1 is what stage 1 fetched, and stage 1 reads no latch. -/
theorem fetchReadsTheSnapshot : Obligations.FetchReadsTheSnapshot := by
  intro s u u' l1 l2 hc hu hu' hrun hrun'
  obtain ⟨-, rfl⟩ := eq_commit_of_running hc hu hrun
  obtain ⟨-, rfl⟩ := eq_commit_of_running (s := { s with latch1 := l1, latch2 := l2 }) hc hu' hrun'
  simp only [State.engineUpdate_latch1, State.slide_latch1, State.commit_latch1]
  rfl

/-- Settles O56, by the four values of the status register. -/
theorem outputsShowTheResult : Obligations.OutputsShowTheResult := by
  intro s
  simp only [State.outputs, State.runningSignal, State.acceptSignal, decide_eq_true_eq, and_true]
  cases s.status with
  | running | accepted | refused | fault => decide

/-- Settles O57: stage 1 fetches at the head pc, and stage 2's thread reads at its lane's index. -/
theorem addressPortsInTheirCycle : Obligations.AddressPortsInTheirCycle := by
  rintro s ⟨-, hp, hrun⟩
  have hcycles : s.cycles = true := by simp [State.cycles, State.runningSignal, hp, hrun]
  constructor
  · intro u L pc hL hpc hlt
    have hread : s.progRead pc = some s.program[pc.toNat] := List.getElem?_eq_getElem hlt
    simp only [State.imemAddr, hcycles, if_true, State.fetch_latch_of_read hL hpc hread]
  · intro u sl hsl hidx
    obtain ⟨c, hc⟩ := State.exists_charRead_of_le hidx
    simp only [State.charAddr, hcycles, if_true, State.thread_of_latch1 hsl, hc, Option.map_some]

/-! ### Two runs that differ in the bitmap and the counter -/

/-- A cycle does not read the bitmap and the counter it starts from (R29, R30, R153). -/
theorem State.cycle_hideBitmapCyc (s : State) (r : Stage2) :
    (s.hideBitmapCyc.cycle r).hideBitmapCyc = (s.cycle r).hideBitmapCyc := by
  have hfaults : s.hideBitmapCyc.cycleFaults r = s.cycleFaults r := rfl
  have hcommit : (s.hideBitmapCyc.commit r).engineUpdate.hideBitmapCyc =
      (s.commit r).engineUpdate.hideBitmapCyc := by
    have hover : (s.hideBitmapCyc.commit r).slide.matchOver = (s.commit r).slide.matchOver := rfl
    simp only [State.engineUpdate, hover]
    cases (s.commit r).slide.matchOver <;> rfl
  simp only [State.cycle, hfaults]
  cases lowest (s.cycleFaults r) with
  | some f => rfl
  | none =>
    cases r.verdict with
    | some v => rfl
    | none => exact hcommit

/-- Settles O52: the edges of the two states are of one kind, and none reads what the states differ in. -/
theorem bitmapAndCounterAreNotRead : Obligations.BitmapAndCounterAreNotRead := by
  intro s s' h
  have hcfg : s'.cfg = s.cfg := (congrArg State.cfg h).symm
  have hlegal : s'.legal = s.legal := (congrArg State.legal h).symm
  have hpin : s'.startPin = s.startPin := (congrArg State.startPin h).symm
  have hstatus : s'.status = s.status := (congrArg State.status h).symm
  constructor
  · intro u hu
    obtain ⟨hl, ⟨inp, hp, hf, rfl⟩ | ⟨hp, hs, rfl⟩ | ⟨⟨-, hp, hs⟩, rfl⟩⟩ := step_cases hu
    · exact ⟨_, step_of_start (hlegal.trans hl) (hpin.trans hp) (hcfg ▸ hf),
        congrArg (fun v => (v.edgePassed.startMatch inp).hideBitmapCyc) h⟩
    · exact ⟨_, step_of_halted (hlegal.trans hl) (hpin.trans hp) (hstatus ▸ hs),
        congrArg State.edgePassed h⟩
    · refine ⟨_, step_of_cycling ⟨hlegal.trans hl, hpin.trans hp, hstatus.trans hs⟩, ?_⟩
      rw [← s.edgePassed.cycle_hideBitmapCyc, ← s'.edgePassed.cycle_hideBitmapCyc,
        ← s.hideBitmapCyc_stage2Now, ← s'.hideBitmapCyc_stage2Now, h]
      exact congrArg (fun v => (v.edgePassed.cycle s'.hideBitmapCyc.stage2Now).hideBitmapCyc) h
  · intro r hr
    have hnot : ¬ s.EdgeAdmitted := fun hadm => by
      obtain ⟨u, hu⟩ := exists_step_of_edgeAdmitted hadm
      simp [hu] at hr
    obtain ⟨r', hr'⟩ := exists_refusal_of_not_edgeAdmitted hnot
    rw [hr' s' hlegal hpin hcfg, ← hr, hr' s rfl rfl rfl]

end Sys2Proof.Machine
end

section
/-! SUPPORT. The invariant of the well-formed state: it holds after every reset, and a fault, a verdict, a Continue
cycle and so every step keep it. -/

namespace Sys2Proof.Machine

/-! ### What is admitted -/

theorem State.legal_iff (s : State) :
    s.legal = true ↔ Config.legal s.cfg = true ∧ 1 ≤ s.program.length ∧ s.program.length ≤ 512 ∧
      Config.inputFits s.cfg s.n = true := by
  simp only [State.legal, Bool.and_eq_true, decide_eq_true_eq, and_assoc]

theorem Config.depth_pos_of_legal {cfg : Config} (h : Config.legal cfg = true) {d : Nat}
    (hd : cfg.fifoDepth = some d) : 0 < d := by
  simp only [Config.legal, Bool.and_eq_true, decide_eq_true_eq] at h
  obtain ⟨⟨-, hdepth⟩, -⟩ := h
  refine Nat.pos_of_ne_zero fun hzero => hdepth ?_
  rw [hd, hzero]

/-- A scan of an admitted Engine visits at least the base lane (R6, R105). -/
theorem Config.scanLength_pos_of_legal {cfg : Config} (h : Config.legal cfg = true) :
    0 < Config.scanLength cfg := by
  have hW := Config.W_pos_of_legal h
  unfold Config.scanLength
  rcases Config.scanLast_or_W_ne_one_of_legal h with hlast | hne
  · simpa [hlast] using hW
  · split <;> omega

/-! ### The reset -/

theorem State.fifo_startMatch (s : State) (hW : 0 < s.cfg.W) (inp : List Chr) (L : Nat) :
    fifo (s.startMatch inp).buf L = if L = 0 then [0] else [] := by
  by_cases hL : L = 0
  · rw [if_pos hL, hL, State.fifo_startMatch_zero hW]
  · rw [if_neg hL, State.fifo_startMatch_of_ne_zero s inp hL]

/-- A start leaves a well-formed state whatever came before it (R241, R243). -/
theorem State.startMatch_inv {s : State} {inp : List Chr} (hcfg : Config.legal s.cfg = true)
    (hmem : Memory.wf s.program) (hfits : Config.inputFits s.cfg inp.length = true) :
    (s.startMatch inp).Inv := by
  have hW := Config.W_pos_of_legal hcfg
  exact {
    config := hcfg
    memory := hmem
    inputFits := hfits
    lanes := s.startMatch_buf_length inp
    bits := by simp
    base := hW
    latch1 := by simp
    latch2 := by simp
    capacity := fun d hd L _ => by
      have hpos := Config.depth_pos_of_legal hcfg hd
      rw [s.fifo_startMatch hW]
      split
      · exact hpos
      · exact Nat.zero_le d
    counter := fun w _ => Nat.two_pow_pos w
    cause := by simp
    window := Nat.zero_le _
    work := fun _ => by
      refine ⟨Nat.zero_le _, (State.laneActive_iff _ _).mpr (.inl ?_)⟩
      rw [State.startMatch_base, State.fifo_startMatch_zero hW]
      exact List.cons_ne_nil 0 [] }

/-- The freshly built machine is what a start would leave of it. -/
theorem State.initial_startMatch (cfg : Config) (program : List Word) (inp : List Chr) :
    (State.initial cfg program inp).startMatch inp = State.initial cfg program inp := rfl

theorem State.initial_inv {cfg : Config} {program : List Word} {inp : List Chr}
    (hcfg : Config.legal cfg = true) (hmem : Memory.wf program)
    (hfits : Config.inputFits cfg inp.length = true) : (State.initial cfg program inp).Inv := by
  rw [← State.initial_startMatch]
  exact State.startMatch_inv hcfg hmem hfits

/-! ### The host's schedule, a fault and a verdict -/

/-- The invariant does not speak of the host's schedule. -/
theorem State.Inv.edgePassed {s : State} (h : s.Inv) : s.edgePassed.Inv :=
  ⟨h.config, h.memory, h.inputFits, h.lanes, h.bits, h.base, h.latch1, h.latch2, h.capacity, h.counter,
    h.cause, h.window, h.work⟩

theorem State.nextCyc_lt (s : State) {w : Nat} (h : s.cfg.cycW = some w) : s.nextCyc < 2 ^ w := by
  obtain ⟨-, hfinite⟩ := s.nextCyc_spec
  obtain ⟨-, hlt⟩ := hfinite w h
  exact hlt

/-- A fault whose code is not one of the defensive ones keeps the invariant (R147). -/
theorem State.Inv.takeFault {s : State} (h : s.Inv) {f : Fault}
    (hf : Fault.fetchBeyondProgram.code ≤ f.code) : (s.takeFault f).Inv :=
  ⟨h.config, h.memory, h.inputFits, h.lanes, h.bits, h.base, h.latch1, h.latch2, h.capacity,
    fun _ => s.nextCyc_lt, by rwa [if_pos (s.takeFault_status f)], h.window, by simp⟩

/-- A verdict keeps the invariant (R148). -/
theorem State.Inv.takeVerdict {s : State} (h : s.Inv) (hrun : s.status = .running) (v : Verdict) :
    (s.takeVerdict v).Inv :=
  ⟨h.config, h.memory, h.inputFits, h.lanes, h.bits, h.base, h.latch1, h.latch2, h.capacity,
    fun _ => s.nextCyc_lt, by simpa [v.status_ne_fault, hrun] using h.cause, h.window,
    by cases v <;> simp [Verdict.status]⟩

/-! ### The Continue cycle -/

/-- What stage 1 latches is a word of the program, in a lane of the block (R26, R132). -/
theorem State.fetch_slotOk {s : State} (hW : 0 < s.cfg.W) {sl : Slot} (h : s.fetch.1 = some sl) :
    s.slotOk sl := by
  refine ⟨State.fetch_lane_lt hW h, ?_⟩
  obtain ⟨-, hf⟩ | ⟨L, pc, -, -, ⟨-, hf⟩ | ⟨w, hw, hf⟩⟩ := s.fetch_cases
  · simp [hf] at h
  · simp [hf] at h
  · obtain rfl : (⟨w, pc, L⟩ : Slot) = sl := by simpa [hf] using h
    exact hw

theorem State.succ_latch2 (s : State) (t : Thread) (p d : Nat) (r : Stage2) :
    (s.succ t p d r).latch2 = r.latch2 := by
  obtain ⟨-, hs⟩ | ⟨-, -, hs⟩ | ⟨-, -, hs⟩ := s.succ_cases t p d r <;> rw [hs] <;> rfl

/-- Only SPLIT writes latch2, with its own slot (R141, R162). -/
theorem split_of_effectOf_latch2 {i : Instr} {s : State} {t : Thread} {sl : Slot}
    (h : (effectOf i s t).latch2 = some sl) : (∃ k, i = .split k) ∧ sl = t.slot := by
  cases i with
  | split k =>
    refine ⟨⟨k, rfl⟩, ?_⟩
    simpa [effectOf, splitEffect, State.succ_latch2] using h.symm
  | accept k =>
    simp only [effectOf, acceptEffect] at h
    split at h <;> cases h
  | matchChar k =>
    simp only [effectOf, matchEffect] at h
    split at h
    · rw [State.succ_latch2] at h
      cases h
    · cases h
  | notMatch k =>
    simp only [effectOf, notMatchEffect] at h
    split at h
    · cases h
    · rw [State.succ_latch2] at h
      cases h
  | jmp k | matchAny k =>
    cases (State.succ_latch2 _ _ _ _ _).symm.trans h
  | endWithoutAccepting k | acceptPartial k => cases h

/-- A SPLIT that raises nothing has its operand and pc + 1 in range (R139, R162). -/
theorem split_range_of_no_faults {k : Operand} {s : State} {t : Thread}
    (h : (effectOf (.split k) s t).faults = []) : k.toNat < 512 ∧ t.slot.pc.toNat < 511 := by
  have hnot : ¬ (512 ≤ k.toNat ∨ t.slot.pc.toNat = 511) := fun hor => by
    have hmem := pcOutOfRange_mem_effectOf_split hor s
    simp [h] at hmem
  have hpc := t.slot.pc.isLt
  omega

/-- Where stage 2 raises nothing it leaves to latch2 a slot of latch1 that holds a SPLIT with its operand in
range. -/
theorem State.stage2Now_latch2 {s : State} {sl : Slot} (hfaults : s.stage2Now.faults = [])
    (hl : s.stage2Now.latch2 = some sl) :
    s.latch1 = some sl ∧ opcodeField sl.instr = 1 ∧ (operandField sl.instr).toNat < 512 := by
  cases ht : s.thread with
  | none =>
    rw [State.stage2Now_of_no_thread ht] at hl
    cases hl
  | some t =>
    obtain ⟨hslot, -⟩ := (s.thread_eq_some_iff t).mp ht
    obtain ⟨i, hi⟩ := exists_decode t.slot.instr
    rw [State.stage2Now_of_thread ht hi] at hfaults hl
    obtain ⟨⟨k, rfl⟩, rfl⟩ := split_of_effectOf_latch2 hl
    obtain ⟨hop, hk⟩ := (decode_eq_ok_iff _ _).mp hi
    obtain ⟨hrange, -⟩ := split_range_of_no_faults hfaults
    exact ⟨hslot, hop.symm, hk ▸ hrange⟩

/-- A block still RUNNING after a Continue cycle has not passed the input, and its base lane has work (R193,
R195). -/
theorem State.Continued.work {s u : State} {ps : List (Nat × Pc)} {l2 : Option Slot}
    (h : s.Continued u ps l2) (hrun : u.status = .running) : u.wi ≤ s.n ∧ u.ActiveLane u.base := by
  have hnot : ¬ (s.n < u.wi ∨ ∀ i, i < s.cfg.W → ¬ u.ActiveLane i) := fun hend => by
    have hrefused := h.ended.mpr hend
    simp [hrun] at hrefused
  push Not at hnot
  obtain ⟨hwi, i, hi, hact⟩ := hnot
  obtain ⟨k, hk, -, -, hinactive, hbase⟩ := h.slide
  refine ⟨hwi, hbase (lt_of_le_of_ne hk fun hall => ?_)⟩
  obtain ⟨j, hj, rfl⟩ := exists_add_mod_eq hi s.base
  exact hinactive j (hall ▸ hj) hact

/-- The Continue commit and the Engine update keep the invariant (R149, R190). -/
theorem State.Inv.commit_engineUpdate {s : State} (h : s.Inv) {r : Stage2} (hrun : s.status = .running)
    (hr : ∀ p ∈ r.pushes, p.1 < s.cfg.W)
    (hl2 : ∀ sl, r.latch2 = some sl →
      s.slotOk sl ∧ opcodeField sl.instr = 1 ∧ (operandField sl.instr).toNat < 512)
    (hroom : s.Room (s.cyclePushes r)) : (s.commit r).engineUpdate.Inv := by
  have hcont : s.Continued (s.commit r).engineUpdate (s.cyclePushes r) r.latch2 :=
    h.continued_commit hrun hr fun sl hsl => by
      obtain ⟨⟨hlane, -⟩, -⟩ := hl2 sl hsl
      exact hlane
  have hslot : ∀ sl, s.slotOk sl → (s.commit r).engineUpdate.slotOk sl := fun sl hsl => by
    simpa [State.slotOk, State.progRead] using hsl
  have hn : (s.commit r).engineUpdate.n = s.n := by simp [State.n]
  have hcause : s.cause = 0 := by simpa [hrun] using h.cause
  obtain ⟨k, hk, hwi, hbase, -, -⟩ := hcont.slide
  obtain ⟨hbits, -⟩ := hcont.bitmap
  obtain ⟨hwin, -⟩ := h.work hrun
  exact {
    config := by simpa using h.config
    memory := by simpa using h.memory
    inputFits := by simpa [State.n] using h.inputFits
    lanes := by rw [hcont.lanes, hcont.cfg, h.lanes]
    bits := by rw [hbits, hcont.cfg]
    base := by
      rw [hcont.cfg, hbase]
      exact Nat.mod_lt _ h.W_pos
    latch1 := fun sl hsl => hslot sl (State.fetch_slotOk h.W_pos (by simpa using hsl))
    latch2 := fun sl hsl => by
      obtain ⟨hok, hsplit⟩ := hl2 sl (by simpa using hsl)
      exact ⟨hslot sl hok, hsplit⟩
    capacity := fun d hd L hL => by
      rw [hcont.cfg] at hd hL
      rw [hcont.queues L hL]
      exact hroom d hd L hL
    counter := fun w hw => by
      rw [hcont.cfg] at hw
      rw [hcont.cyc]
      exact s.nextCyc_lt hw
    cause := by
      have hfault : (s.commit r).engineUpdate.status ≠ .fault := by
        rcases hcont.running with hst | hst <;> simp [hst]
      rw [if_neg hfault, hcont.cause, hcause]
    window := by
      rw [hn, hcont.cfg, hwi]
      omega
    work := fun hst => by
      rw [hn, State.laneActive_iff]
      exact hcont.work hst }

/-! ### Every step -/

theorem State.Inv.room_of_no_faults {s : State} (h : s.Inv) {r : Stage2}
    (hr : ∀ p ∈ r.pushes, p.1 < s.cfg.W) (hnil : s.cycleFaults r = []) :
    r.faults = [] ∧ s.Room (s.cyclePushes r) := by
  simp only [State.cycleFaults, List.append_eq_nil_iff] at hnil
  obtain ⟨⟨-, hfaults⟩, hwb⟩ := hnil
  exact ⟨hfaults, (h.writeback_faults_eq_nil_iff (h.cyclePushes_lane_lt hr)).mp hwb⟩

/-- A cycle keeps the invariant, in each of its three outcomes. -/
theorem State.Inv.cycle_stage2Now {s : State} (h : s.Inv) (hrun : s.status = .running) :
    (s.cycle s.stage2Now).Inv := by
  obtain ⟨-, hpushes⟩ := State.stage2Now_faults_pushes h.W_pos
  obtain ⟨f, hlow, hcyc⟩ | ⟨-, v, -, hcyc⟩ | ⟨hnil, -, hcyc⟩ := s.cycle_cases s.stage2Now
  · obtain ⟨hmem, -⟩ := lowest_spec _ f hlow
    rw [hcyc]
    exact h.takeFault (h.fetchBeyondProgram_code_le hmem)
  · rw [hcyc]
    exact h.takeVerdict hrun v
  · rw [hcyc]
    obtain ⟨hfaults, hroom⟩ := h.room_of_no_faults hpushes hnil
    refine h.commit_engineUpdate hrun hpushes (fun sl hsl => ?_) hroom
    obtain ⟨hl1, hsplit⟩ := State.stage2Now_latch2 hfaults hsl
    exact ⟨h.latch1 sl hl1, hsplit⟩

/-- Settles O47: the machine's reset state is a freshly built machine with admitted parameters. -/
theorem resetIsWellFormed : Obligations.ResetIsWellFormed :=
  ⟨fun _ _ _ => State.initial_inv, State.initial_inv (by decide) (by decide) rfl⟩

/-- Settles O48: a start leaves the reset state, a halted block only moves the host's schedule, and a cycle
keeps the invariant in each of its outcomes. -/
theorem stepKeepsWellFormed : Obligations.StepKeepsWellFormed := by
  intro s u h hu
  obtain ⟨-, ⟨inp, -, hf, rfl⟩ | ⟨-, -, rfl⟩ | ⟨⟨-, -, hrun⟩, rfl⟩⟩ := step_cases hu
  · exact State.startMatch_inv (s := s.edgePassed) h.config h.memory hf
  · exact h.edgePassed
  · rw [← s.edgePassed_stage2Now]
    exact h.edgePassed.cycle_stage2Now hrun

end Sys2Proof.Machine
end

section
/-! SUPPORT. The pushes of a cycle: the one successor of an instruction, what they leave in the queues, the
frame of an instruction, the second branch of a SPLIT, and the first cycle of a match. -/

namespace Sys2Proof.Machine

/-! ### The successor of an instruction -/

/-- A result of stage 2 requests nothing, or one successor, which `valid` announces (R33, R138). -/
def Stage2.AtMostOne (r : Stage2) : Prop :=
  (r.pushes = [] ∧ r.valid = false) ∨ ∃ p, r.pushes = [p] ∧ r.valid = true

theorem State.succ_atMostOne (s : State) (t : Thread) (p d : Nat) {r : Stage2} (hp : r.pushes = [])
    (hv : r.valid = false) : (s.succ t p d r).AtMostOne := by
  obtain ⟨-, hs⟩ | ⟨-, -, hs⟩ | ⟨-, -, hs⟩ := s.succ_cases t p d r
  · exact .inl (by simp [hs, Stage2.raise, hp, hv])
  · exact .inl (by simp [hs, Stage2.raise, hp, hv])
  · exact .inr ⟨((t.slot.lane + d) % s.cfg.W, BitVec.ofNat 9 p), by simp [hs, hp], by rw [hs]⟩

theorem effectOf_atMostOne (i : Instr) (s : State) (t : Thread) : (effectOf i s t).AtMostOne := by
  cases i with
  | accept k =>
    simp only [effectOf, acceptEffect]
    split <;> exact .inl ⟨rfl, rfl⟩
  | endWithoutAccepting k | acceptPartial k => exact .inl ⟨rfl, rfl⟩
  | split k => refine s.succ_atMostOne t _ _ ?_ ?_ <;> split <;> rfl
  | jmp k | matchAny k => exact s.succ_atMostOne t _ _ rfl rfl
  | matchChar k =>
    simp only [effectOf, matchEffect]
    split
    · exact s.succ_atMostOne t _ _ rfl rfl
    · exact .inl ⟨rfl, rfl⟩
  | notMatch k =>
    simp only [effectOf, notMatchEffect]
    split
    · exact .inl ⟨rfl, rfl⟩
    · exact s.succ_atMostOne t _ _ rfl rfl

/-- Settles O38: stage 2 pushes to lanes of the block, and requests nothing or one successor. -/
theorem atMostOneSuccessor : Obligations.AtMostOneSuccessor := by
  intro i s t hinv
  obtain ⟨-, hlanes⟩ := effectOf_faults_pushes i hinv.W_pos t
  obtain ⟨hp, hv⟩ | ⟨p, hp, hv⟩ := effectOf_atMostOne i s t
  · exact ⟨by simp [hp], hlanes, by simp [hp, hv]⟩
  · exact ⟨by simp [hp], hlanes, by simp [hp, hv]⟩

/-- Settles O36: W - 1 is the offset of the one lane before the base, and with W = 1 the only offset. -/
theorem overrunLaneIsBase : Obligations.OverrunLaneIsBase := by
  intro s t hinv ht
  obtain ⟨-, hoff, -, -⟩ := (s.thread_eq_some_iff t).mp ht
  rw [hoff]
  refine ⟨State.offset_add_one_eq_W_iff hinv.base (hinv.thread_lane_lt ht), fun hW => ?_⟩
  obtain ⟨hlt, -⟩ := s.offset_spec hinv.W_pos t.slot.lane
  omega

/-! ### The queues at the end of a cycle -/

/-- Later pushes come behind: the lane stage 1 fetched from had a head to lose before them (R144). -/
theorem State.queueAfter_append (s : State) (ps qs : List (Nat × Pc)) (L : Nat) :
    s.queueAfter (ps ++ qs) L = s.queueAfter ps L ++ (qs.filter fun p => p.1 == L).map Prod.snd := by
  simp only [State.queueAfter, List.filter_append, List.map_append, ← List.append_assoc]
  split
  · next hL => exact List.tail_append_of_ne_nil (by simp [(State.firstNonEmpty_some hL).2])
  · rfl

theorem State.queueAfter_of_untouched {s : State} {ps : List (Nat × Pc)} {L : Nat}
    (hL : s.firstNonEmpty ≠ some L) (hps : ∀ p ∈ ps, p.1 ≠ L) : s.queueAfter ps L = fifo s.buf L := by
  have hnone : (ps.filter fun p => p.1 == L) = [] := by simpa using hps
  simp only [State.queueAfter, hL, if_false, hnone, List.map_nil, List.append_nil]

theorem State.stage2_pushes_lane_lt {s : State} (hW : 0 < s.cfg.W) (i : Instr) :
    ∀ p ∈ (s.stage2 (effectOf i s)).pushes, p.1 < s.cfg.W := by
  cases ht : s.thread with
  | none => simp [State.stage2_of_no_thread ht, Stage2.none]
  | some t =>
    rw [State.stage2_of_thread ht]
    exact (effectOf_faults_pushes i hW t).2

/-- A cycle leaves a queue as it is, or as R144 says. -/
theorem State.Inv.fifo_cycle {s : State} (h : s.Inv) {r : Stage2} (hr : ∀ p ∈ r.pushes, p.1 < s.cfg.W)
    (L : Nat) :
    fifo (s.cycle r).buf L = fifo s.buf L ∨ fifo (s.cycle r).buf L = s.queueAfter (s.cyclePushes r) L := by
  obtain ⟨f, -, hcyc⟩ | ⟨-, v, -, hcyc⟩ | ⟨-, -, hcyc⟩ := s.cycle_cases r
  · exact .inl (by rw [hcyc, State.takeFault_buf])
  · exact .inl (by rw [hcyc, State.takeVerdict_buf])
  · obtain ⟨-, hfifo, -⟩ := h.writeback_spec (h.cyclePushes_lane_lt hr)
    refine .inr ?_
    rw [hcyc, State.engineUpdate_buf, State.slide_buf, State.commit_buf, hfifo]

/-- Settles O37: what no outcome of a cycle writes, and a queue that the cycle neither pushes to nor pops. -/
theorem execFrame : Obligations.ExecFrame := by
  intro i s u hinv hu
  obtain rfl : s.cycle (s.stage2 (effectOf i s)) = u := by simpa [exec_eq_cycle] using hu
  obtain ⟨hcfg, hprogram, hinput, hedges, -⟩ := s.cycle_frame (s.stage2 (effectOf i s))
  refine ⟨hcfg, hprogram, hinput, hedges, fun pc => ?_, fun idx => ?_,
    State.cycle_cause_of_not_fault, fun L _ hL hps => ?_⟩
  · rw [State.progRead, hprogram, State.progRead]
  · rw [State.charRead, State.n, hinput, hcfg, State.charRead, State.n]
  · obtain hkept | hafter := hinv.fifo_cycle (State.stage2_pushes_lane_lt hinv.W_pos i) L
    · exact hkept
    · rw [hafter, State.queueAfter_of_untouched hL hps]

/-! ### Cycles that leave the block RUNNING -/

/-- A cycle of a well-formed state that commits is a Continue cycle (R149). -/
theorem State.Inv.continued_of_no_faults {s : State} (h : s.Inv) (hrun : s.status = .running)
    (hnil : s.cycleFaults s.stage2Now = []) :
    s.Continued (s.commit s.stage2Now).engineUpdate (s.cyclePushes s.stage2Now) s.stage2Now.latch2 := by
  obtain ⟨-, hpushes⟩ := State.stage2Now_faults_pushes h.W_pos
  obtain ⟨hfaults, -⟩ := h.room_of_no_faults hpushes hnil
  refine h.continued_commit hrun hpushes fun sl hsl => ?_
  obtain ⟨hl1, -⟩ := State.stage2Now_latch2 hfaults hsl
  exact (h.latch1 sl hl1).1

/-- A cycle that leaves the block RUNNING raised nothing in stage 2 and is a Continue cycle. -/
theorem State.Inv.continued_of_running {s u : State} (h : s.Inv) (hc : s.Cycling) (hu : step s = .next u)
    (hrun : u.status = .running) : s.stage2Now.faults = [] ∧
      s.edgePassed.Continued u (s.cyclePushes s.stage2Now) s.stage2Now.latch2 := by
  obtain ⟨hnil, rfl⟩ := eq_commit_of_running hc hu hrun
  obtain ⟨-, -, hrunning⟩ := hc
  obtain ⟨-, hpushes⟩ := State.stage2Now_faults_pushes h.W_pos
  obtain ⟨hfaults, -⟩ := h.room_of_no_faults hpushes hnil
  refine ⟨hfaults, ?_⟩
  have hcont := h.edgePassed.continued_of_no_faults hrunning
  rw [State.edgePassed_stage2Now] at hcont
  exact hcont hnil

/-- Settles O35: the first cycle pushes pc + 1 to the SPLIT's lane and hands the SPLIT to latch2, and stage 3's
push of its operand is the last of the second cycle. -/
theorem splitFansOutOverTwoCycles : Obligations.SplitFansOutOverTwoCycles := by
  intro s u v t k hinv hc ht hdec hu hcu hv hvrun
  have hlane := hinv.thread_lane_lt ht
  have hinv' : u.Inv := stepKeepsWellFormed s u hinv hu
  have ⟨_, _, hurun⟩ := hcu
  obtain ⟨hfaults, hcont⟩ := hinv.continued_of_running hc hu hurun
  obtain ⟨-, hcont'⟩ := hinv'.continued_of_running hcu hv hvrun
  have hnow : s.stage2Now = .successor t.slot.lane (t.slot.pc + 1) (some t.slot) := by
    rw [State.stage2Now_of_thread ht hdec] at hfaults ⊢
    obtain ⟨hk, hpc⟩ := split_range_of_no_faults hfaults
    rw [effectOf_split_of_lt hk]
    exact State.succ_eq_successor_of_same_lane (Thread.nextPc_eq_toNat hpc) hlane _
  rw [hnow] at hcont
  constructor
  · rw [hcont.queues _ hlane]
    have hsplit : s.cyclePushes (.successor t.slot.lane (t.slot.pc + 1) (some t.slot)) =
        [] ++ (t.slot.lane, t.slot.pc + 1) :: s.stage3 := rfl
    rw [hsplit, State.queueAfter_append]
    simp
  · obtain ⟨-, hthree⟩ := stageThreeDeliversSecondBranch u hinv'
    obtain ⟨p, hp, hs3, -⟩ := hthree t.slot hcont.latch2
    obtain ⟨-, hoperand⟩ := (decode_eq_ok_iff _ _).mp hdec
    refine ⟨p, hp.trans (congrArg BitVec.toNat hoperand.symm), ?_⟩
    have hlane' : t.slot.lane < u.edgePassed.cfg.W := by
      rw [State.edgePassed_cfg, hcont.cfg]
      exact hlane
    rw [hcont'.queues _ hlane', State.cyclePushes, hs3, State.queueAfter_append]
    simp

/-- Settles O18: every cause of a cycle has a code from FetchBeyondProgram's on. -/
theorem defensiveCausesNeverArise : Obligations.DefensiveCausesNeverArise := by
  intro s u hinv hc hu _
  have hne : ∀ g : Fault, g.code < Fault.fetchBeyondProgram.code → u.cause ≠ g.code := fun g hg hcause =>
    BitVec.not_lt.mpr (hinv.fetchBeyondProgram_code_le (hinv.mem_cycleFaults_of_cause hc hu hcause)) hg
  exact ⟨hne .malformedInstruction (by decide), hne .invalidLanePush (by decide), hne .popEmpty (by decide)⟩

/-! ### An empty latch1 -/

/-- Settles O33: with no thread stage 2 leaves nothing for the cycle. -/
theorem emptyLatchIdles : Obligations.EmptyLatchIdles := by
  intro s hinv hc hempty hfetch hroom
  have ⟨_, _, hrun⟩ := hc
  refine ⟨_, step_of_cycling hc, ?_⟩
  rw [State.stage2Now_of_no_thread (State.thread_of_latch1_none hempty)]
  exact hinv.edgePassed.continued_cycle_none hrun hfetch hroom

theorem State.fifo_initial {cfg : Config} (hW : 0 < cfg.W) (program : List Word) (inp : List Chr) (L : Nat) :
    fifo (State.initial cfg program inp).buf L = if L = 0 then [0] else [] := by
  rw [← State.initial_startMatch]
  exact State.fifo_startMatch _ hW inp L

/-- The scan of a freshly built machine stops at its first lane. -/
theorem State.firstNonEmpty_initial {cfg : Config} (hcfg : Config.legal cfg = true) (program : List Word)
    (inp : List Chr) : (State.initial cfg program inp).firstNonEmpty = some 0 := by
  refine (State.firstNonEmpty_eq_some_iff _ 0).mpr
    ⟨0, Config.scanLength_pos_of_legal hcfg, (Nat.zero_mod _).symm, ?_, by simp⟩
  rw [State.fifo_initial (Config.W_pos_of_legal hcfg)]
  exact List.cons_ne_nil 0 []

theorem State.queueAfter_initial {cfg : Config} (hcfg : Config.legal cfg = true) (program : List Word)
    (inp : List Chr) (L : Nat) : (State.initial cfg program inp).queueAfter [] L = [] := by
  simp only [State.queueAfter, State.firstNonEmpty_initial hcfg, State.fifo_initial (Config.W_pos_of_legal hcfg)]
  by_cases hL : L = 0
  · simp [hL]
  · simp [hL, Ne.symm hL]

/-- Settles O46: an idle cycle that fetches the one continuation there is; its lane, the base lane, is then the
one active lane. -/
theorem firstCycleFetchesPcZero : Obligations.FirstCycleFetchesPcZero := by
  intro cfg program inp hlegal
  obtain ⟨hcfg, hone, hmem, hfits⟩ := (State.legal_iff _).mp hlegal
  replace hcfg : Config.legal cfg = true := hcfg
  have hW : 0 < cfg.W := Config.W_pos_of_legal hcfg
  have hinv : (State.initial cfg program inp).Inv := State.initial_inv hcfg hmem hfits
  have hfirst := State.firstNonEmpty_initial hcfg program inp
  have hqueue := State.queueAfter_initial hcfg program inp
  have hhead : headOf (State.initial cfg program inp).buf 0 = some 0 := by
    simp [headOf, State.fifo_initial hW]
  obtain ⟨w, hw⟩ : ∃ w, program[0]? = some w := ⟨_, List.getElem?_eq_getElem hone⟩
  have hfetch : (State.initial cfg program inp).FetchOk := by
    intro L pc hL hpc
    obtain rfl : 0 = L := by simpa [hfirst] using hL
    obtain rfl : 0 = pc := by simpa [hhead] using hpc
    exact hone
  have hroom : (State.initial cfg program inp).Room [] := fun d _ L _ => by simp [hqueue]
  obtain ⟨u, hu, hcont⟩ := emptyLatchIdles _ hinv ⟨hlegal, rfl, rfl⟩ rfl hfetch hroom
  have hlatch1 : u.latch1 = some ⟨w, 0, 0⟩ := hcont.fetched 0 0 w hfirst hhead hw
  have hfifo : ∀ L, fifo u.buf L = [] := fun L => by
    by_cases hL : L < cfg.W
    · exact (hcont.queues L hL).trans (hqueue L)
    · refine fifo_of_length_le ?_
      rw [hcont.lanes, State.edgePassed_buf, hinv.lanes]
      exact Nat.le_of_not_lt hL
  have hactive : ∀ i, u.ActiveLane i ↔ i = 0 := fun i => by
    simp [State.ActiveLane, hfifo, hlatch1, hcont.latch2, eq_comm]
  obtain ⟨k, -, hwi, hbase, hinactive, -⟩ := hcont.slide
  obtain rfl : k = 0 := by
    by_contra hk
    exact hinactive 0 (Nat.pos_of_ne_zero hk) ((hactive _).mpr (Nat.zero_mod _))
  have hwi0 : u.wi = 0 := hwi
  have hstatus : u.status = .running := hcont.running.resolve_left fun hrefused => by
    rcases hcont.ended.mp hrefused with hpast | hnone
    · simp [hwi0] at hpast
    · exact hnone 0 hW ((hactive 0).mpr rfl)
  obtain ⟨-, hbits⟩ := hcont.bitmap
  exact ⟨u, w, hu, hw, hlatch1, hcont.latch2, hfifo, hstatus, hwi0, hbase.trans (Nat.zero_mod _),
    fun i hi => (hbits i hi).trans (hactive i)⟩

/-! ### A placed word -/

theorem tableWord_sixteen (w : Nat) : tableWord 16 w = BitVec.ofNat 16 w := by
  apply BitVec.eq_of_toNat_eq
  simp [tableWord]

/-- A state in which a word is placed runs a cycle at its next edge (log entry 2). -/
theorem State.Inv.placeWord_cycling {s : State} (h : s.Inv) (w : Word) : (s.placeWord w).Cycling := by
  refine ⟨(State.legal_iff _).mpr ⟨h.config, ?_, Memory.wf_load s.nextToRun.1 w h.memory, h.inputFits⟩, ?_, rfl⟩
  · rw [State.placeWord_program, Memory.length_load]
    exact le_max_of_le_right (Nat.le_add_left 1 _)
  · rw [State.startPin, State.placeWord_edges]
    cases s.edges <;> rfl

/-- Settles O40: the placed word stands in latch1 of a state whose next edge is a cycle. -/
theorem placedWordRunsNext : Obligations.PlacedWordRunsNext := by
  intro s w hinv
  obtain ⟨i, hi, hstep⟩ := stepRunsDecodedInstruction (s.withFetchWord 16 w) _
    (hinv.placeWord_cycling (tableWord 16 w)) rfl
  refine ⟨i, ?_, hstep, ?_⟩
  · have hdec : decode (tableWord 16 w) = .ok i := hi
    simp only [decodeTableWord, hdec, le_refl, if_true, Except.toOption]
  · simp [State.withFetchWord, tableWord_sixteen]

end Sys2Proof.Machine
end

section
/-! SUPPORT. The window: what an edge does to it, the character index of an active lane, and the
window offset of the thread in latch1 when the scans leave the last lane out (43_engine.md §2,
70_reset_and_hazards.md R250). -/

namespace Sys2Proof.Machine

/-- An edge resets the block, or keeps latch1 and the window, or is a Continue cycle, which fills latch1 from
stage 1. -/
theorem State.Inv.step_window_cases {s u : State} (h : s.Inv) (hu : step s = .next u) :
    (∃ inp, s.startPin = some inp ∧ u = s.edgePassed.startMatch inp) ∨
    (u.cfg = s.cfg ∧ u.latch1 = s.latch1 ∧ u.wi = s.wi ∧ u.base = s.base) ∨
    (u.latch1 = s.fetch.1 ∧ ∃ ps l2, s.edgePassed.Continued u ps l2) := by
  obtain ⟨-, ⟨inp, hstart, -, rfl⟩ | ⟨-, -, rfl⟩ | ⟨⟨-, -, hrun⟩, rfl⟩⟩ := step_cases hu
  · exact .inl ⟨inp, hstart, rfl⟩
  · exact .inr (.inl ⟨rfl, rfl, rfl, rfl⟩)
  · rw [← s.edgePassed_stage2Now]
    obtain ⟨f, -, hcyc⟩ | ⟨-, v, -, hcyc⟩ | ⟨hnil, -, hcyc⟩ :=
      s.edgePassed.cycle_cases s.edgePassed.stage2Now
    · rw [hcyc]
      exact .inr (.inl ⟨rfl, rfl, rfl, rfl⟩)
    · rw [hcyc]
      exact .inr (.inl ⟨rfl, rfl, rfl, rfl⟩)
    · rw [hcyc]
      exact .inr (.inr ⟨by simp, _, _, h.edgePassed.continued_of_no_faults hrun hnil⟩)

/-! ### Offsets and character indices -/

/-- The lane m steps from the base is at window offset m (R37). -/
theorem State.offset_base_add {s : State} {m : Nat} (hm : m < s.cfg.W) :
    s.offset ((s.base + m) % s.cfg.W) = m := by
  have hrem : ((((s.base + m) % s.cfg.W : Nat) : Int) - s.base) % s.cfg.W = m := by
    rw [Int.natCast_emod, Int.emod_sub_emod, Int.natCast_add, add_sub_cancel_left]
    exact Int.emod_eq_of_lt (Int.natCast_nonneg m) (Int.ofNat_lt.mpr hm)
  rw [State.offset, wrap, hrem, Int.toNat_natCast]

theorem State.offset_congr {s u : State} (hcfg : u.cfg = s.cfg) (hbase : u.base = s.base) (L : Nat) :
    u.offset L = s.offset L := by
  rw [State.offset, State.offset, hcfg, hbase]

/-- The slide stops at or before an active lane, so it takes from that lane's offset what it adds to the window
index (R193, R194). -/
theorem State.Continued.charIndex_eq {s u : State} {ps : List (Nat × Pc)} {l2 : Option Slot}
    (h : s.Continued u ps l2) {L : Nat} (hL : L < s.cfg.W) (hact : u.ActiveLane L) :
    u.charIndex L = s.charIndex L := by
  obtain ⟨k, -, hwi, hbase, hinactive, -⟩ := h.slide
  obtain ⟨m, hm, rfl⟩ := exists_add_mod_eq hL s.base
  have hkm : k ≤ m := Nat.le_of_not_lt fun hlt => hinactive m hlt hact
  have hlane : (s.base + m) % s.cfg.W = (u.base + (m - k)) % u.cfg.W := by
    rw [h.cfg, hbase, Nat.mod_add_mod, Nat.add_assoc, Nat.add_sub_cancel' hkm]
  have hoff : u.offset ((s.base + m) % s.cfg.W) = m - k := by
    rw [hlane, State.offset_base_add]
    rw [h.cfg]
    omega
  rw [State.charIndex, State.charIndex, hoff, State.offset_base_add hm, hwi]
  omega

/-- Settles O49: without a start the window stands still or slides over inactive lanes only. -/
theorem activeLaneKeepsItsIndex : Obligations.ActiveLaneKeepsItsIndex := by
  intro s u hinv hp hu L hL hact
  obtain ⟨inp, hstart, -⟩ | ⟨hcfg, -, hwi, hbase⟩ | ⟨-, ps, l2, hcont⟩ := hinv.step_window_cases hu
  · simp [hp] at hstart
  · rw [State.charIndex, State.charIndex, hwi, State.offset_congr hcfg hbase]
  · exact hcont.charIndex_eq hL hact

/-- Settles O50: the slide adds one count to the window index and, modulo W, to the base. -/
theorem windowMovesForward : Obligations.WindowMovesForward := by
  intro s u hinv hp hu
  obtain ⟨inp, hstart, -⟩ | ⟨-, -, hwi, hbase⟩ | ⟨-, ps, l2, hcont⟩ := hinv.step_window_cases hu
  · simp [hp] at hstart
  · rw [hwi, hbase, Nat.sub_self, Nat.add_zero, Nat.mod_eq_of_lt hinv.base]
    exact ⟨le_rfl, Nat.le_add_right _ _, rfl⟩
  · obtain ⟨k, hk, hwi, hbase, -, -⟩ := hcont.slide
    simp only [State.edgePassed_wi, State.edgePassed_base, State.edgePassed_cfg] at hk hwi hbase
    rw [hwi, hbase, Nat.add_sub_cancel_left]
    exact ⟨Nat.le_add_right _ _, Nat.add_le_add_left hk _, rfl⟩

/-! ### Scans that leave the last lane out -/

/-- Under SCAN_LAST = false stage 1 never fetches from the lane at window offset W-1 (R105). -/
theorem State.fetch_offset_lt {s : State} (hlast : s.cfg.scanLast = false) {sl : Slot}
    (h : s.fetch.1 = some sl) : s.offset sl.lane + 1 < s.cfg.W := by
  obtain ⟨-, hf⟩ | ⟨L, pc, hL, -, ⟨-, hf⟩ | ⟨w, -, hf⟩⟩ := s.fetch_cases
  · simp [hf] at h
  · simp [hf] at h
  · obtain rfl : (⟨w, pc, L⟩ : Slot) = sl := by simpa [hf] using h
    obtain ⟨k, hk, rfl, -, -⟩ := (s.firstNonEmpty_eq_some_iff L).mp hL
    have hkW : k < s.cfg.W - 1 := by simpa [Config.scanLength, hlast] using hk
    rw [State.offset_base_add (by omega)]
    omega

/-- A thread fetched in a Continue cycle is not at window offset W-1 after the slide, which can only bring it
nearer to the base. -/
theorem State.Continued.lastOffsetFree {s u : State} {ps : List (Nat × Pc)} {l2 : Option Slot}
    (h : s.Continued u ps l2) (hW : 0 < s.cfg.W) (hl1 : u.latch1 = s.fetch.1) : u.LastOffsetFree := by
  intro hlast sl hsl
  rw [h.cfg] at hlast ⊢
  have hfetch : s.fetch.1 = some sl := hl1 ▸ hsl
  have hbefore : s.offset sl.lane + 1 < s.cfg.W := State.fetch_offset_lt hlast hfetch
  have hindex : u.wi + u.offset sl.lane = s.wi + s.offset sl.lane :=
    h.charIndex_eq (State.fetch_lane_lt hW hfetch) (.inr (.inl ⟨sl, hsl, rfl⟩))
  obtain ⟨k, -, hwi, -⟩ := h.slide
  omega

theorem State.Inv.step_lastOffsetFree {s u : State} (h : s.Inv) (hfree : s.LastOffsetFree)
    (hu : step s = .next u) : u.LastOffsetFree := by
  obtain ⟨inp, -, rfl⟩ | ⟨hcfg, hl1, -, hbase⟩ | ⟨hl1, ps, l2, hcont⟩ := h.step_window_cases hu
  · intro _ sl hsl
    cases hsl
  · intro hlast sl hsl
    rw [State.offset_congr hcfg hbase, hcfg]
    exact hfree (hcfg ▸ hlast) sl (hl1 ▸ hsl)
  · exact hcont.lastOffsetFree h.W_pos hl1

/-- Settles O51: only a thread at window offset W-1 raises WindowOverrun, and none is fetched from there. -/
theorem noOverrunWithoutLastLane : Obligations.NoOverrunWithoutLastLane := by
  refine ⟨fun _ _ _ _ sl hsl => (by cases hsl), fun s u hinv hfree hu =>
    ⟨hinv.step_lastOffsetFree hfree hu, fun hc hlast hseven => ?_⟩⟩
  obtain ⟨t, ht, hoff, -⟩ := hinv.overrun_of_windowOverrun_mem
    (hinv.mem_cycleFaults_of_cause hc hu (g := .windowOverrun) hseven)
  obtain ⟨hslot, hoffset, -, -⟩ := (s.thread_eq_some_iff t).mp ht
  have hlt := hfree hlast t.slot hslot
  omega

end Sys2Proof.Machine
end
